-- ==== Sys2Proof/Word.lean ====
section
/-! DEFINITION. The widths of the spec (00_scope.md rules R12, R14): bytes, 16-bit and 32-bit unsigned values. A byte
sequence is a `List Byte`, index 0 first (R16). Byte order and bit fields are in `Decode.lean`. -/

namespace Sys2Proof

/-- u8 (R14). -/
abbrev Byte := BitVec 8

/-- u16, and i16 read as two's complement (R14). -/
abbrev Half := BitVec 16

/-- u32 (R14). -/
abbrev Word := BitVec 32

end Sys2Proof
end

