-- ==== Sys2Proof/Config.lean ====
section
/-! DEFINITION. What is fixed for the life of one block: the parameters of 00_scope.md rule R10. The ones the spec gives
are plain constants; the OPEN ones form the record `Config`. `Config` is built so that a parameter set that
breaks the constraints of R10 and R11 cannot be written down; `Config.ofParameters` refuses such a set (R11, U3).
The two values the spec leaves to the platform, the configuration installed in a block and the timer at power-on, are
opaque constants: nothing can be proved of their value. -/

namespace Sys2Proof

/-- `L_MAX`, the largest length field (R10): 2^12 - 1. -/
def lMax : Nat := 4095

/-- `P_MAX`, the largest payload (R10; 90_conflicts.md C1: 4092, not 4093). -/
def pMax : Nat := 4092

/-- `SPAN_MAX`, the largest frame on the wire (R10): `L_MAX + 4`. -/
def spanMax : Nat := 4099

/-- `T_DEFAULT`, the timeout that a TIMEOUT word of 0 selects, in ticks (R10, R802). -/
def tDefault : Word := 5000#32

/-- `T_MAX`, the largest legal TIMEOUT word (R10, R802). -/
def tMax : Word := 0x7FFFFFFF#32

/-- The noise control modes (10_state.md rule R107). -/
inductive NcMode
  | off | anc | ambient | adaptive | unknown
  deriving DecidableEq, Repr, Inhabited

/-- The OPEN parameters of R10, in a form in which every value meets R10's and R11's constraints: `STATUS_MIN_LEN`,
`RX_CAP` and `CHUNK_MAX` are held as what they exceed their least legal value by. -/
structure Config where
  /-- `CRC_TABLE : Fin 256 -> u16` (40_crc.md rule R401). -/
  crcTable : Vector Half 256
  /-- `NC_DECODE : u8 -> NcMode`, total (43_dispatch.md rule R701). -/
  ncDecode : Vector NcMode 256
  /-- `OFF_BATT_L`. -/
  offBattL : Nat
  /-- `OFF_BATT_R`. -/
  offBattR : Nat
  /-- `OFF_WEAR`. -/
  offWear : Nat
  /-- `OFF_NC`. -/
  offNc : Nat
  /-- `WEAR_BIT`, 0..7. -/
  wearBit : Fin 8
  /-- `STATUS_MIN_LEN` less the largest of the four offsets. -/
  statusSlack : Nat
  /-- `RX_CAP` less `SPAN_MAX`. -/
  rxSpare : Nat
  /-- `CHUNK_MAX` less 1. -/
  chunkSpare : Nat
  deriving DecidableEq, Repr, Inhabited

/-- The largest of the four offsets (R11). -/
def Config.maxOffset (c : Config) : Nat :=
  max (max c.offBattL c.offBattR) (max c.offWear c.offNc)

/-- `STATUS_MIN_LEN` (R10, R11: no offset lies beyond it). -/
def Config.statusMinLen (c : Config) : Nat := c.maxOffset + c.statusSlack

/-- `RX_CAP` (R10, 20_memory.md rule R204: at least `SPAN_MAX`). -/
def Config.rxCap (c : Config) : Nat := spanMax + c.rxSpare

/-- `CHUNK_MAX` (R10: at least 1). -/
def Config.chunkMax (c : Config) : Nat := 1 + c.chunkSpare

/-- A parameter set as R10 lists it, legal or not. -/
structure Parameters where
  crcTable : Vector Half 256
  ncDecode : Vector NcMode 256
  statusMinLen : Nat
  offBattL : Nat
  offBattR : Nat
  offWear : Nat
  offNc : Nat
  wearBit : Nat
  rxCap : Nat
  chunkMax : Nat
  deriving DecidableEq, Repr

/-- The constraints of R10 and R11: every offset at most `STATUS_MIN_LEN`, `WEAR_BIT` in 0..7, `RX_CAP ≥ SPAN_MAX`,
`CHUNK_MAX ≥ 1`. -/
def Parameters.legal (p : Parameters) : Bool :=
  decide (max (max p.offBattL p.offBattR) (max p.offWear p.offNc) ≤ p.statusMinLen)
    && decide (p.wearBit < 8) && decide (spanMax ≤ p.rxCap) && decide (1 ≤ p.chunkMax)

/-- The block a parameter set makes; none where the set breaks a constraint ("no block exists for it", R11, U3). -/
def Config.ofParameters (p : Parameters) : Option Config :=
  if p.legal then
    some
      { crcTable := p.crcTable
        ncDecode := p.ncDecode
        offBattL := p.offBattL
        offBattR := p.offBattR
        offWear := p.offWear
        offNc := p.offNc
        wearBit := Fin.ofNat 8 p.wearBit
        statusSlack := p.statusMinLen - max (max p.offBattL p.offBattR) (max p.offWear p.offNc)
        rxSpare := p.rxCap - spanMax
        chunkSpare := p.chunkMax - 1 }
  else none

/-- The configuration a block holds at power-on reset (70_reset_and_hazards.md rule R1103). The spec leaves it OPEN.
Free value; notes/assumptions/1.md. -/
opaque Config.installed : Config

/-- The value of `now` at power-on: "unspecified: any u32 (a draw)" (10_state.md rule R119). Free value;
notes/assumptions/2.md. -/
opaque Config.nowAtPowerOn : Word

end Sys2Proof
end

