-- ==== Sys2Proof/Syntax.lean ====
section
/-! DEFINITION. Names, ports, encoded inputs, and `Instr`: one constructor per row of spec/opcode_table.json. An instruction of
this block is one input transaction (00_scope.md rule R8): a host command, an environment input, a frame of the message
catalogue, or a pseudo-instruction. -/

namespace Sys2Proof

/-- The two logical channels (10_state.md rule R104): DATA = 0, CMD = 1. -/
inductive Channel
  | data | cmd
  deriving DecidableEq, Repr, Inhabited

/-- The command kinds K0..K3 (10_state.md rule R110). -/
inductive Kind
  | noise | ancLevel | ambientLevel | testConn
  deriving DecidableEq, Repr, Inhabited

/-- The kinds in increasing order, `for k in 0..3` (R17). -/
def Kind.all : List Kind := [.noise, .ancLevel, .ambientLevel, .testConn]

/-- Where an input arrives, which is also how its bytes are read. `host`, `transport` and `timer` are the block's ports
(30_encoding.md rules R310, R313). `rxFrame` and `txFrame` carry the opcode table's rows of format `frame`: a frame of the message
catalogue named by its message id and payload, to be received on, or transmitted on, a channel
(R307; notes/assumptions/6.md). -/
inductive Port
  | host
  | transport
  | timer
  | rxFrame (ch : Channel)
  | txFrame (ch : Channel)
  deriving DecidableEq, Repr, Inhabited

/-- One input transaction as it stands on a port: its bytes, 32-bit words least significant byte first (20_memory.md
rule R203), and the transport's answer `wr_ok` to the frame write it may cause (a draw of the environment, 00_scope.md
rule R13; no meaning reads it where no frame is written). -/
structure Input where
  port : Port
  bytes : List Byte
  wrOk : Bool
  deriving DecidableEq, Repr, Inhabited

/-- The instructions: one constructor per row of the opcode table, in the table's order within each format. -/
inductive Instr
  /-- CONNECT (R900). -/
  | connect
  /-- DISCONNECT (R901). -/
  | disconnect
  /-- SEND ch, id, payload, with the transport's answer (R903). -/
  | send (ch : Channel) (id : Byte) (payload : List Byte) (wrOk : Bool)
  /-- ISSUE kind, TIMEOUT word, payload, with the transport's answer (R801). -/
  | issue (k : Kind) (timeout : Word) (payload : List Byte) (wrOk : Bool)
  /-- SNAPSHOT (R904). -/
  | snapshot
  /-- A host header word with the reserved OP 0x0; `rest` is its bits 31..4 (R315). -/
  | illegalOp0 (rest : BitVec 28)
  /-- Reserved OP 0x6 on the host port (R315). -/
  | illegalOp6 (rest : BitVec 28)
  /-- Reserved OP 0x7 on the host port (R315). -/
  | illegalOp7 (rest : BitVec 28)
  /-- The environment OP 0x8 on the host port (R315). -/
  | illegalOp8 (rest : BitVec 28)
  /-- The environment OP 0x9 on the host port (R315). -/
  | illegalOp9 (rest : BitVec 28)
  /-- The environment OP 0xA on the host port (R315). -/
  | illegalOpA (rest : BitVec 28)
  /-- Reserved OP 0xB on the host port (R315). -/
  | illegalOpB (rest : BitVec 28)
  /-- Reserved OP 0xC on the host port (R315). -/
  | illegalOpC (rest : BitVec 28)
  /-- Reserved OP 0xD on the host port (R315). -/
  | illegalOpD (rest : BitVec 28)
  /-- Reserved OP 0xE on the host port (R315). -/
  | illegalOpE (rest : BitVec 28)
  /-- Reserved OP 0xF on the host port (R315). -/
  | illegalOpF (rest : BitVec 28)
  /-- RX ch, chunk on the transport port (R601). -/
  | rx (ch : Channel) (chunk : List Byte)
  /-- RX_ERR ch on the transport port (R602). -/
  | rxErr (ch : Channel)
  /-- TICK on the timer port (R806). -/
  | tick
  /-- Receive of the frame 0x61, extended status, on DATA (R702). -/
  | rxStatus (payload : List Byte)
  /-- Receive of the frame 0x42, acknowledgment, on DATA (R703). -/
  | rxAck (payload : List Byte)
  /-- Receive of the frame 0x01, connection-test result, on CMD (R707). -/
  | rxTestResult (payload : List Byte)
  /-- Transmit of the frame 0x78 on DATA, by ISSUE of kind K0 (R801). -/
  | txNoise (timeout : Word) (payload : List Byte) (wrOk : Bool)
  /-- Transmit of the frame 0x83 on DATA, by ISSUE of kind K1 (R801). -/
  | txAncLevel (timeout : Word) (payload : List Byte) (wrOk : Bool)
  /-- Transmit of the frame 0x84 on DATA, by ISSUE of kind K2 (R801). -/
  | txAmbientLevel (timeout : Word) (payload : List Byte) (wrOk : Bool)
  /-- Transmit of the frame 0x01 on CMD, by ISSUE of kind K3 (R801). -/
  | txTestConn (timeout : Word) (payload : List Byte) (wrOk : Bool)
  /-- Transmit of the frame 0x61 on DATA, by SEND (R903). -/
  | txStatusRequest (payload : List Byte) (wrOk : Bool)
  /-- Receive of a frame with an id that is not listed for its channel (R708). -/
  | rxOther (ch : Channel) (id : Byte) (payload : List Byte)
  /-- Pseudo-instruction SET_NOISE b, t (R317). -/
  | setNoise (b : Byte) (timeout : Word) (wrOk : Bool)
  /-- Pseudo-instruction SET_ANC b, t (R317). -/
  | setAnc (b : Byte) (timeout : Word) (wrOk : Bool)
  /-- Pseudo-instruction SET_AMBIENT b, t (R317). -/
  | setAmbient (b : Byte) (timeout : Word) (wrOk : Bool)
  /-- Pseudo-instruction TEST_CONN t (R317). -/
  | testConn (timeout : Word) (wrOk : Bool)
  /-- Pseudo-instruction REQ_STATUS (R317). -/
  | reqStatus (wrOk : Bool)
  /-- Pseudo-instruction TICK*n (R317). -/
  | ticks (n : Nat)
  deriving DecidableEq, Repr, Inhabited

end Sys2Proof
end

