-- ==== Sys2Proof/WellFormed.lean ====
section
/-! DEFINITION. Which terms of `Instr` are instructions: the bounds that the encodings put on their operands. -/

namespace Sys2Proof

/-- The largest PLEN of a header word: a 16-bit field (30_encoding.md rule R310). -/
def plenMax : Nat := 65535

/-- The (channel, message id) pairs whose receipt the dispatcher interprets (30_encoding.md rule R307, 43_dispatch.md
rule R700). -/
def listed (ch : Channel) (id : Byte) : Bool :=
  match ch with
  | .data => id == 0x61#8 || id == 0x42#8
  | .cmd => id == 0x01#8

/-- The operand fits the fields of its encoding: a command's payload and a chunk fit PLEN (R310: values above `P_MAX` are
legal in the word), a received frame's payload fits the length field (R303), and the row for other message ids holds no listed
pair (R708). -/
def Instr.wf : Instr → Bool
  | .send _ _ p _ => decide (p.length ≤ plenMax)
  | .issue _ _ p _ => decide (p.length ≤ plenMax)
  | .rx _ c => decide (c.length ≤ plenMax)
  | .rxStatus p => decide (p.length ≤ pMax)
  | .rxAck p => decide (p.length ≤ pMax)
  | .rxTestResult p => decide (p.length ≤ pMax)
  | .txNoise _ p _ => decide (p.length ≤ plenMax)
  | .txAncLevel _ p _ => decide (p.length ≤ plenMax)
  | .txAmbientLevel _ p _ => decide (p.length ≤ plenMax)
  | .txTestConn _ p _ => decide (p.length ≤ plenMax)
  | .txStatusRequest p _ => decide (p.length ≤ plenMax)
  | .rxOther ch id p => decide (p.length ≤ pMax) && !listed ch id
  | .connect | .disconnect | .snapshot | .tick => true
  | .illegalOp0 _ | .illegalOp6 _ | .illegalOp7 _ | .illegalOp8 _ | .illegalOp9 _ | .illegalOpA _ => true
  | .illegalOpB _ | .illegalOpC _ | .illegalOpD _ | .illegalOpE _ | .illegalOpF _ => true
  | .rxErr _ => true
  | .setNoise _ _ _ | .setAnc _ _ _ | .setAmbient _ _ _ | .testConn _ _ | .reqStatus _ | .ticks _ => true

end Sys2Proof
end

