-- ==== Sys2Proof/Decode.lean ====
section
/-! DEFINITION. From bytes to instructions and back (30_encoding.md): byte order, the header word's fields (R310, R311), the
decoder, total on any input and rejecting by name (R315), and after it the encoder. `decodeTableWord` reads one row's
bits as the opcode table numbers them. -/

namespace Sys2Proof

/-! ## Byte order (20_memory.md rules R202, R203): least significant byte first -/

/-- The two bytes of a 16-bit value as they stand in a byte stream. -/
def halfBytes (h : Half) : List Byte := [h.extractLsb' 0 8, h.extractLsb' 8 8]

/-- The 16-bit value that two bytes of a stream make, the earlier byte low. -/
def halfOf (lo hi : Byte) : Half := hi ++ lo

/-- The four bytes of a 32-bit word as they stand in a byte stream. -/
def wordBytes (w : Word) : List Byte :=
  [w.extractLsb' 0 8, w.extractLsb' 8 8, w.extractLsb' 16 8, w.extractLsb' 24 8]

/-- The 32-bit word that four bytes of a stream make, the earliest byte least significant. -/
def wordOf (b0 b1 b2 b3 : Byte) : Word := b3 ++ b2 ++ b1 ++ b0

/-! ## The header word (R310) -/

/-- The fields of a header word, from bit 0 up. -/
structure Header where
  op : BitVec 4
  ch : BitVec 1
  kind : BitVec 2
  rsv : BitVec 1
  msgId : Byte
  plen : Half
  deriving DecidableEq, Repr, Inhabited

/-- The fields of a word: OP [3:0], CH [4], KIND [6:5], reserved [7], MSG_ID [15:8], PLEN [31:16]. -/
def headerOf (w : Word) : Header :=
  { op := w.extractLsb' 0 4
    ch := w.extractLsb' 4 1
    kind := w.extractLsb' 5 2
    rsv := w.extractLsb' 7 1
    msgId := w.extractLsb' 8 8
    plen := w.extractLsb' 16 16 }

/-- The word with the given fields. -/
def headerWord (h : Header) : Word := h.plen ++ h.msgId ++ h.rsv ++ h.kind ++ h.ch ++ h.op

/-- The header word with a given OP and the other 28 bits as given. -/
def opWord (rest : BitVec 28) (op : BitVec 4) : Word := rest ++ op

/-- Bits 31..4 of a header word. -/
def restOf (w : Word) : BitVec 28 := w.extractLsb' 4 28

/-- CH as a channel: 0 DATA, 1 CMD. -/
def channelOf (b : BitVec 1) : Channel := if b = 1#1 then .cmd else .data

/-- A channel as CH. -/
def channelBit : Channel → BitVec 1
  | .data => 0#1
  | .cmd => 1#1

/-- KIND as a kind: 0..3 (10_state.md rule R110). -/
def kindOf (b : BitVec 2) : Kind :=
  if b = 0#2 then .noise else if b = 1#2 then .ancLevel else if b = 2#2 then .ambientLevel else .testConn

/-- A kind's code (10_state.md rule R110). -/
def kindBits : Kind → BitVec 2
  | .noise => 0#2
  | .ancLevel => 1#2
  | .ambientLevel => 2#2
  | .testConn => 3#2

/-! ## The decoder -/

/-- What the bytes of an input are. -/
inductive Decoded
  /-- An instruction. -/
  | instr (i : Instr)
  /-- A host command that R315 calls illegal and that no row of the table holds: a reserved bit or an unused field is not zero. -/
  | illegal
  /-- An input on the transport or timer port that is none of that port's operations, because of its OP (R315) or because a field its
  operation does not use is not zero (R311; notes/assumptions/8.md): it has no effect and no answer. -/
  | dropped
  /-- No whole transaction: the byte count is not the one R310 gives it, or a frame port holds no frame of the catalogue. The spec
  has no such input (notes/assumptions/5.md). -/
  | malformed
  deriving DecidableEq, Repr

/-- `i` where nothing follows it, otherwise not one transaction. -/
def alone (tail : List Byte) (i : Instr) : Decoded := if tail = [] then .instr i else .malformed

/-- A reserved OP with whatever follows it: its row's instruction where the transaction ends with the header word, and illegal all the
same where more bytes stand behind it (R315). -/
def reservedOp (tail : List Byte) (i : Instr) : Decoded := if tail = [] then .instr i else .illegal

/-- A command on the host port: its header word, the bytes that follow, the transport's answer (R310, R311, R315). -/
def decodeHost (w : Word) (tail : List Byte) (wrOk : Bool) : Decoded :=
  let h := headerOf w
  match h.op.toNat with
  | 0 => reservedOp tail (.illegalOp0 (restOf w))
  | 1 => if restOf w = 0#28 then alone tail .connect else .illegal
  | 2 => if restOf w = 0#28 then alone tail .disconnect else .illegal
  | 3 =>
    if h.kind = 0#2 ∧ h.rsv = 0#1 then
      if tail.length = h.plen.toNat then .instr (.send (channelOf h.ch) h.msgId tail wrOk) else .malformed
    else .illegal
  | 4 =>
    if h.ch = 0#1 ∧ h.rsv = 0#1 ∧ h.msgId = 0#8 then
      match tail with
      | t0 :: t1 :: t2 :: t3 :: payload =>
        if payload.length = h.plen.toNat then
          .instr (.issue (kindOf h.kind) (wordOf t0 t1 t2 t3) payload wrOk)
        else .malformed
      | _ => .malformed
    else .illegal
  | 5 => if restOf w = 0#28 then alone tail .snapshot else .illegal
  | 6 => reservedOp tail (.illegalOp6 (restOf w))
  | 7 => reservedOp tail (.illegalOp7 (restOf w))
  | 8 => reservedOp tail (.illegalOp8 (restOf w))
  | 9 => reservedOp tail (.illegalOp9 (restOf w))
  | 10 => reservedOp tail (.illegalOpA (restOf w))
  | 11 => reservedOp tail (.illegalOpB (restOf w))
  | 12 => reservedOp tail (.illegalOpC (restOf w))
  | 13 => reservedOp tail (.illegalOpD (restOf w))
  | 14 => reservedOp tail (.illegalOpE (restOf w))
  | _ => reservedOp tail (.illegalOpF (restOf w))

/-- An input on the transport port: RX, which uses CH and PLEN, and RX_ERR, which uses CH (R311). Every other OP (R315), and a nonzero
field the operation does not use (R311; notes/assumptions/8.md), is dropped. -/
def decodeTransport (w : Word) (tail : List Byte) : Decoded :=
  let h := headerOf w
  match h.op.toNat with
  | 8 =>
    if h.kind = 0#2 ∧ h.rsv = 0#1 ∧ h.msgId = 0#8 then
      if tail.length = h.plen.toNat then .instr (.rx (channelOf h.ch) tail) else .malformed
    else .dropped
  | 9 =>
    if h.kind = 0#2 ∧ h.rsv = 0#1 ∧ h.msgId = 0#8 ∧ h.plen = 0#16 then alone tail (.rxErr (channelOf h.ch))
    else .dropped
  | _ => .dropped

/-- An input on the timer port: TICK, which uses no field (R311). Every other OP (R315), and TICK with a nonzero field (R311;
notes/assumptions/8.md), is dropped. -/
def decodeTimer (w : Word) (tail : List Byte) : Decoded :=
  if (headerOf w).op = 0xA#4 ∧ restOf w = 0#28 then alone tail .tick else .dropped

/-- The row of a received frame, by channel and message id (R307, R308). -/
def rxInstr (ch : Channel) (id : Byte) (payload : List Byte) : Instr :=
  match ch with
  | .data =>
    if id = 0x61#8 then .rxStatus payload
    else if id = 0x42#8 then .rxAck payload
    else .rxOther .data id payload
  | .cmd => if id = 0x01#8 then .rxTestResult payload else .rxOther .cmd id payload

/-- A received frame as message id and payload; the payload fits the length field (R303). -/
def decodeRxFrame (ch : Channel) (id : Byte) (payload : List Byte) : Decoded :=
  if payload.length ≤ pMax then .instr (rxInstr ch id payload) else .malformed

/-- The TIMEOUT word and payload that follow a transmitted frame's id, where the frame is one of an ISSUE. -/
def decodeTxIssue (tail : List Byte) (mk : Word → List Byte → Instr) : Decoded :=
  match tail with
  | t0 :: t1 :: t2 :: t3 :: payload =>
    if payload.length ≤ plenMax then .instr (mk (wordOf t0 t1 t2 t3) payload) else .malformed
  | _ => .malformed

/-- A frame of the transmit catalogue (R307): 0x78, 0x83, 0x84 on DATA and 0x01 on CMD by ISSUE, 0x61 on DATA by SEND. -/
def decodeTxFrame (ch : Channel) (id : Byte) (tail : List Byte) (wrOk : Bool) : Decoded :=
  match ch with
  | .data =>
    if id = 0x78#8 then decodeTxIssue tail (fun t p => .txNoise t p wrOk)
    else if id = 0x83#8 then decodeTxIssue tail (fun t p => .txAncLevel t p wrOk)
    else if id = 0x84#8 then decodeTxIssue tail (fun t p => .txAmbientLevel t p wrOk)
    else if id = 0x61#8 then
      if tail.length ≤ plenMax then .instr (.txStatusRequest tail wrOk) else .malformed
    else .malformed
  | .cmd => if id = 0x01#8 then decodeTxIssue tail (fun t p => .txTestConn t p wrOk) else .malformed

/-- The bytes after the header word of an input on a port that carries words. -/
def decodeWords (read : Word → List Byte → Decoded) (bytes : List Byte) : Decoded :=
  match bytes with
  | b0 :: b1 :: b2 :: b3 :: tail => read (wordOf b0 b1 b2 b3) tail
  | _ => .malformed

/-- The bytes after the message id of an input on a port that carries frames. -/
def decodeFrame (read : Byte → List Byte → Decoded) (bytes : List Byte) : Decoded :=
  match bytes with
  | id :: tail => read id tail
  | [] => .malformed

/-- What an input is: total on any port and any bytes. -/
def decode (inp : Input) : Decoded :=
  match inp.port with
  | .host => decodeWords (fun w tail => decodeHost w tail inp.wrOk) inp.bytes
  | .transport => decodeWords decodeTransport inp.bytes
  | .timer => decodeWords decodeTimer inp.bytes
  | .rxFrame ch => decodeFrame (decodeRxFrame ch) inp.bytes
  | .txFrame ch => decodeFrame (fun id tail => decodeTxFrame ch id tail inp.wrOk) inp.bytes

/-! ## The encoder -/

/-- A command on the host port. -/
def hostInput (w : Word) (tail : List Byte) (wrOk : Bool) : Input :=
  { port := .host, bytes := wordBytes w ++ tail, wrOk := wrOk }

/-- `SEND ch, m, p` = `0x3 | ch<<4 | m<<8 | |p|<<16`, then the payload (R316). -/
def sendInput (ch : Channel) (id : Byte) (payload : List Byte) (wrOk : Bool) : Input :=
  hostInput
    (headerWord
      { op := 0x3#4, ch := channelBit ch, kind := 0#2, rsv := 0#1, msgId := id, plen := BitVec.ofNat 16 payload.length })
    payload wrOk

/-- `ISSUE k, t, p` = `0x4 | k<<5 | |p|<<16`, then word `t`, then the payload (R316). -/
def issueInput (k : Kind) (timeout : Word) (payload : List Byte) (wrOk : Bool) : Input :=
  hostInput
    (headerWord
      { op := 0x4#4, ch := 0#1, kind := kindBits k, rsv := 0#1, msgId := 0#8, plen := BitVec.ofNat 16 payload.length })
    (wordBytes timeout ++ payload) wrOk

/-- A received frame as message id and payload. -/
def rxFrameInput (ch : Channel) (id : Byte) (payload : List Byte) : Input :=
  { port := .rxFrame ch, bytes := id :: payload, wrOk := true }

/-- A frame of the transmit catalogue that an ISSUE sends: message id, TIMEOUT word, payload. -/
def txIssueInput (ch : Channel) (id : Byte) (timeout : Word) (payload : List Byte) (wrOk : Bool) : Input :=
  { port := .txFrame ch, bytes := id :: (wordBytes timeout ++ payload), wrOk := wrOk }

/-- `TICK` = 0x0000_000A (R316). -/
def tickInput : Input := { port := .timer, bytes := wordBytes 0x0000000A#32, wrOk := true }

/-- The inputs that make an instruction happen, in order: one input, but for `TICK*n`, which is n TICK inputs (R317). -/
def encode : Instr → List Input
  | .connect => [hostInput 0x00000001#32 [] true]
  | .disconnect => [hostInput 0x00000002#32 [] true]
  | .send ch id p w => [sendInput ch id p w]
  | .issue k t p w => [issueInput k t p w]
  | .snapshot => [hostInput 0x00000005#32 [] true]
  | .illegalOp0 r => [hostInput (opWord r 0x0#4) [] true]
  | .illegalOp6 r => [hostInput (opWord r 0x6#4) [] true]
  | .illegalOp7 r => [hostInput (opWord r 0x7#4) [] true]
  | .illegalOp8 r => [hostInput (opWord r 0x8#4) [] true]
  | .illegalOp9 r => [hostInput (opWord r 0x9#4) [] true]
  | .illegalOpA r => [hostInput (opWord r 0xA#4) [] true]
  | .illegalOpB r => [hostInput (opWord r 0xB#4) [] true]
  | .illegalOpC r => [hostInput (opWord r 0xC#4) [] true]
  | .illegalOpD r => [hostInput (opWord r 0xD#4) [] true]
  | .illegalOpE r => [hostInput (opWord r 0xE#4) [] true]
  | .illegalOpF r => [hostInput (opWord r 0xF#4) [] true]
  | .rx ch c =>
    [{ port := .transport
       bytes :=
        wordBytes
          (headerWord
            { op := 0x8#4, ch := channelBit ch, kind := 0#2, rsv := 0#1, msgId := 0#8, plen := BitVec.ofNat 16 c.length }) ++ c
       wrOk := true }]
  | .rxErr ch =>
    [{ port := .transport
       bytes :=
        wordBytes (headerWord { op := 0x9#4, ch := channelBit ch, kind := 0#2, rsv := 0#1, msgId := 0#8, plen := 0#16 })
       wrOk := true }]
  | .tick => [tickInput]
  | .rxStatus p => [rxFrameInput .data 0x61#8 p]
  | .rxAck p => [rxFrameInput .data 0x42#8 p]
  | .rxTestResult p => [rxFrameInput .cmd 0x01#8 p]
  | .txNoise t p w => [txIssueInput .data 0x78#8 t p w]
  | .txAncLevel t p w => [txIssueInput .data 0x83#8 t p w]
  | .txAmbientLevel t p w => [txIssueInput .data 0x84#8 t p w]
  | .txTestConn t p w => [txIssueInput .cmd 0x01#8 t p w]
  | .txStatusRequest p w => [{ port := .txFrame .data, bytes := 0x61#8 :: p, wrOk := w }]
  | .rxOther ch id p => [rxFrameInput ch id p]
  | .setNoise b t w => [issueInput .noise t [b] w]
  | .setAnc b t w => [issueInput .ancLevel t [b] w]
  | .setAmbient b t w => [issueInput .ambientLevel t [b] w]
  | .testConn t w => [issueInput .testConn t [] w]
  | .reqStatus w => [sendInput .data 0x61#8 [] w]
  | .ticks n => List.replicate n tickInput

/-- The core instructions an instruction stands for: the expansions of R317 for a pseudo-instruction, itself otherwise. -/
def Instr.expand : Instr → List Instr
  | .setNoise b t w => [.issue .noise t [b] w]
  | .setAnc b t w => [.issue .ancLevel t [b] w]
  | .setAmbient b t w => [.issue .ambientLevel t [b] w]
  | .testConn t w => [.issue .testConn t [] w]
  | .reqStatus w => [.send .data 0x61#8 [] w]
  | .ticks n => List.replicate n .tick
  | .connect => [.connect]
  | .disconnect => [.disconnect]
  | .send ch id p w => [.send ch id p w]
  | .issue k t p w => [.issue k t p w]
  | .snapshot => [.snapshot]
  | .illegalOp0 r => [.illegalOp0 r]
  | .illegalOp6 r => [.illegalOp6 r]
  | .illegalOp7 r => [.illegalOp7 r]
  | .illegalOp8 r => [.illegalOp8 r]
  | .illegalOp9 r => [.illegalOp9 r]
  | .illegalOpA r => [.illegalOpA r]
  | .illegalOpB r => [.illegalOpB r]
  | .illegalOpC r => [.illegalOpC r]
  | .illegalOpD r => [.illegalOpD r]
  | .illegalOpE r => [.illegalOpE r]
  | .illegalOpF r => [.illegalOpF r]
  | .rx ch c => [.rx ch c]
  | .rxErr ch => [.rxErr ch]
  | .tick => [.tick]
  | .rxStatus p => [.rxStatus p]
  | .rxAck p => [.rxAck p]
  | .rxTestResult p => [.rxTestResult p]
  | .txNoise t p w => [.txNoise t p w]
  | .txAncLevel t p w => [.txAncLevel t p w]
  | .txAmbientLevel t p w => [.txAmbientLevel t p w]
  | .txTestConn t p w => [.txTestConn t p w]
  | .txStatusRequest p w => [.txStatusRequest p w]
  | .rxOther ch id p => [.rxOther ch id p]

/-! ## One row of the opcode table -/

/-- The zero bytes that follow a header word whose operands are all zero: the payload or chunk PLEN counts, and an ISSUE's
TIMEOUT word (R310). -/
def zeroTail (port : Port) (w : Word) : List Byte :=
  let h := headerOf w
  match port, h.op.toNat with
  | .host, 3 => List.replicate h.plen.toNat 0#8
  | .host, 4 => List.replicate (4 + h.plen.toNat) 0#8
  | .transport, 8 => List.replicate h.plen.toNat 0#8
  | _, _ => []

/-- The port whose code an OP is: transport for RX and RX_ERR, timer for TICK, host for every other (R311). -/
def portOf (w : Word) : Port :=
  match (headerOf w).op.toNat with
  | 8 => .transport
  | 9 => .transport
  | 10 => .timer
  | _ => .host

/-- The input whose bits are `w` in the opcode table's numbering, everything above `nbits` zero. A row of format `frame` has its message id in
bits 7..0: a word of at most one byte that is an id of the catalogue is such a row (0x61, 0x42 and 0x01 as the received
frame, 0x78, 0x83 and 0x84 as the transmitted one, with no payload and a TIMEOUT word of 0). Every other word is a
header word, on the port its OP belongs to. `wr_ok` is true. -/
def tableInput (nbits w : Nat) : Input :=
  let id := BitVec.ofNat 8 w
  let word := BitVec.ofNat 32 (w % 2 ^ nbits)
  if nbits ≤ 8 ∧ id = 0x61#8 then rxFrameInput .data id []
  else if nbits ≤ 8 ∧ id = 0x42#8 then rxFrameInput .data id []
  else if nbits ≤ 8 ∧ id = 0x01#8 then rxFrameInput .cmd id []
  else if nbits ≤ 8 ∧ (id = 0x78#8 ∨ id = 0x83#8 ∨ id = 0x84#8) then txIssueInput .data id 0#32 [] true
  else { port := portOf word, bytes := wordBytes word ++ zeroTail (portOf word) word, wrOk := true }

/-- The instruction the decoder reads from a row's bits; none where it reads none. -/
def decodeTableWord (nbits w : Nat) : Option Instr :=
  match decode (tableInput nbits w) with
  | .instr i => some i
  | .illegal => none
  | .dropped => none
  | .malformed => none

end Sys2Proof
end

