-- ==== Sys2Proof/Machine/State.lean ====
section
/-! DEFINITION. The state of the block (10_state.md rule R102), the model's own fields beside it (the configuration of the block, the
inputs still to come, the outputs made so far), what a step can stop with, and the state after power-on reset. -/

namespace Sys2Proof.Machine

/-- `Wear`, GBC's `bool|unknown` (10_state.md rule R108). -/
inductive Wear
  | notWearing | wearing | unknown
  deriving DecidableEq, Repr, Inhabited

/-- `-1` as an i16: an unknown battery or level (10_state.md rule R106). -/
def unknownLevel : Half := 0xFFFF#16

/-- The device status store (10_state.md rule R106). The four `Half` fields are i16. -/
structure DeviceStatus where
  batteryLeft : Half
  batteryRight : Half
  isWearing : Wear
  noiseControlMode : NcMode
  ambientLevel : Half
  ancLevel : Half
  deriving DecidableEq, Repr, Inhabited

/-- `UNKNOWN_STATUS` (10_state.md rule R109). -/
def unknownStatus : DeviceStatus :=
  { batteryLeft := unknownLevel
    batteryRight := unknownLevel
    isWearing := .unknown
    noiseControlMode := .unknown
    ambientLevel := unknownLevel
    ancLevel := unknownLevel }

/-- A slot of the pending-command registry (10_state.md rule R111). -/
inductive Slot
  | idle
  | sent (deadline : Word) (tag : Half)
  deriving DecidableEq, Repr, Inhabited

/-- How a wait ends (60_exceptions.md rules R1008, R1009). A value other than 0x00 and a snapshot come with SUCCESS only. -/
inductive Ending
  | success (value : Byte) (snap : DeviceStatus)
  | timeout
  | superseded
  | cancelled
  deriving DecidableEq, Repr, Inhabited

/-- The output events (60_exceptions.md rule R1006). -/
inductive Event
  | txFrame (ch : Channel) (bytes : List Byte)
  | completion (k : Kind) (tag : Half) (e : Ending)
  | statusChanged (snap : DeviceStatus)
  | transportError (ch : Channel)
  deriving DecidableEq, Repr, Inhabited

/-- What SNAPSHOT returns beside its result word (45_connection.md rule R904). -/
structure Snapshot where
  status : DeviceStatus
  flags : Word
  now : Word
  seq : Half
  deriving DecidableEq, Repr, Inhabited

/-- The synchronous results of host commands (60_exceptions.md rule R1003): OK plain, OK with the tag of a registered wait, OK with a
snapshot, and the five error codes. -/
inductive Answer
  | ok
  | registered (tag : Half)
  | snapshot (snap : Snapshot)
  | encodeError
  | writeError
  | notConnected
  | illegal
  | stateError
  deriving DecidableEq, Repr, Inhabited

/-- The state. The block's own elements are those of R102: `connected`, `rxbuf` (`rxData`, `rxCmd`), `status`, `slot` (four
fields), `now`, `seq`. The rest is the model's: `config` is the block's configuration, which no step writes (R102,
R1103); `inputs` are the transactions still to come, from all agents, in the order they are taken (R209, R1017); `events` and
`answers` are what the block has put out on its ports so far, oldest first (R213, R314). -/
structure State where
  config : Config
  connected : Bool
  rxData : List Byte
  rxCmd : List Byte
  status : DeviceStatus
  slotNoise : Slot
  slotAncLevel : Slot
  slotAmbientLevel : Slot
  slotTestConn : Slot
  now : Word
  seq : Half
  inputs : List Input
  events : List Event
  answers : List Answer
  deriving DecidableEq, Repr, Inhabited

/-- Why the machine stops with a fault. There is no reason: "The block never halts, never enters a fault state" (60_exceptions.md rule
R1000; 93_implementation_defined.md U22), so the type has no constructor. -/
inductive Fault
  deriving DecidableEq, Repr

/-- Why a step gives no next state. -/
inductive Refusal
  /-- Raised by an arm of `exec` whose instruction has no meaning yet. Safe: nothing is claimed of it. No arm raises it. -/
  | notModelled (mnemonic : String)
  /-- Raised by `step` where the bytes of the next input are no whole transaction (R310 gives it another length, or a frame port holds no
  frame of the catalogue). No such input exists in the spec. Safe: nothing is claimed of it (notes/assumptions/5.md). -/
  | malformedTransaction
  deriving DecidableEq, Repr

/-- The block right after power-on reset (70_reset_and_hazards.md rule R1101, 10_state.md rule R119): no input has come and nothing has
been put out. -/
def State.reset : State :=
  { config := Config.installed
    connected := false
    rxData := []
    rxCmd := []
    status := unknownStatus
    slotNoise := .idle
    slotAncLevel := .idle
    slotAmbientLevel := .idle
    slotTestConn := .idle
    now := Config.nowAtPowerOn
    seq := 0#16
    inputs := []
    events := []
    answers := [] }

end Sys2Proof.Machine
end

