-- ==== Sys2Proof/Machine/Ops.lean ====
section
/-! DEFINITION. The named operations over the state: the one place each element is read and written. The block takes no
exception and returns from none (60_exceptions.md rules R1000, R1001); what stands here in their place is the error result of a
host command (`answer`), the output event (`emit`) and the end of a wait (`finishWait`). -/

namespace Sys2Proof.Machine

/-! ## Elements (10_state.md rule R102) -/

/-- `s.rxbuf ch` (R104). -/
def State.rxbuf (s : State) : Channel → List Byte
  | .data => s.rxData
  | .cmd => s.rxCmd

/-- `s.rxbuf ch <- b`. -/
def State.setRxbuf (s : State) (ch : Channel) (b : List Byte) : State :=
  match ch with
  | .data => { s with rxData := b }
  | .cmd => { s with rxCmd := b }

/-- `s.slot k` (R111). -/
def State.slot (s : State) : Kind → Slot
  | .noise => s.slotNoise
  | .ancLevel => s.slotAncLevel
  | .ambientLevel => s.slotAmbientLevel
  | .testConn => s.slotTestConn

/-- `s.slot k <- x`. -/
def State.setSlot (s : State) (k : Kind) (x : Slot) : State :=
  match k with
  | .noise => { s with slotNoise := x }
  | .ancLevel => { s with slotAncLevel := x }
  | .ambientLevel => { s with slotAmbientLevel := x }
  | .testConn => { s with slotTestConn := x }

/-- `s.connected <- b` (R103). -/
def State.setConnected (s : State) (b : Bool) : State := { s with connected := b }

/-- `s.status <- d` (R106). -/
def State.setStatus (s : State) (d : DeviceStatus) : State := { s with status := d }

/-- `s.now <- n` (R113). -/
def State.setNow (s : State) (n : Word) : State := { s with now := n }

/-- `s.seq <- n` (R114). -/
def State.setSeq (s : State) (n : Half) : State := { s with seq := n }

/-- The inputs still to come become `l`. -/
def State.setInputs (s : State) (l : List Input) : State := { s with inputs := l }

/-! ## Outputs -/

/-- `emit E`: the event is appended to the block's event stream; every port always accepts (R17, R213, R1007). -/
def State.emit (s : State) (e : Event) : State := { s with events := s.events ++ [e] }

/-- `result R`: the synchronous result on the host command port (R17, R314). -/
def State.answer (s : State) (a : Answer) : State := { s with answers := s.answers ++ [a] }

/-- A host command that is illegal: "the step returns `result ILLEGAL` and changes nothing and emits nothing" (30_encoding.md rule R315). -/
def illegalCommand (s : State) : State := s.answer .illegal

/-- The byte stream a channel's transmit stream has carried (20_memory.md rules R201, R207): its frames one after another. -/
def txStream (ch : Channel) : List Event → List Byte
  | [] => []
  | .txFrame c bytes :: rest => if c = ch then bytes ++ txStream ch rest else txStream ch rest
  | .completion _ _ _ :: rest => txStream ch rest
  | .statusChanged _ :: rest => txStream ch rest
  | .transportError _ :: rest => txStream ch rest

/-! ## Waits -/

/-- The one way a wait ends (R112, R805): a live wait of kind `k` emits its completion and its slot returns to `Idle` in the same step;
an `Idle` slot has nothing to end. -/
def finishWait (k : Kind) (e : Ending) (s : State) : State :=
  match s.slot k with
  | .idle => s
  | .sent _ tag => (s.emit (.completion k tag e)).setSlot k .idle

/-- `for k in 0..3`, in increasing order (R17). -/
def forEachKind (f : Kind → State → State) (s : State) : State :=
  f .testConn (f .ambientLevel (f .ancLevel (f .noise s)))

/-! ## Fetching an input -/

/-- The next input and the state that waits for the one after it; none where no input has arrived. -/
def nextInput (s : State) : Option (Input × State) :=
  match s.inputs with
  | [] => none
  | i :: rest => some (i, s.setInputs rest)

end Sys2Proof.Machine
end

