-- ==== Sys2Proof/Machine/Operands.lean ====
section
/-! DEFINITION. The operands of commands and inputs: what a kind sends and waits for, the timeout and its expiry, the chunk a receive step
may take, the payload bytes of the messages the dispatcher reads, and the configuration's tables. -/

namespace Sys2Proof.Machine

/-! ## Kinds: `KIND_TABLE` (10_state.md rule R110) -/

/-- The channel a kind's command is sent on. -/
def kindChannel : Kind → Channel
  | .noise => .data
  | .ancLevel => .data
  | .ambientLevel => .data
  | .testConn => .cmd

/-- The message id a kind's command is sent with. -/
def kindMessageId : Kind → Byte
  | .noise => 0x78#8
  | .ancLevel => 0x83#8
  | .ambientLevel => 0x84#8
  | .testConn => 0x01#8

/-! ## Timeouts (44_correlator.md) -/

/-- A TIMEOUT word that makes an ISSUE illegal: 0x8000_0000 and above (R802, R315). -/
def timeoutIllegal (t : Word) : Bool := decide (0x80000000#32 ≤ t)

/-- The ticks a TIMEOUT word stands for: 0 selects `T_DEFAULT` (R802). -/
def timeoutTicks (t : Word) : Word := if t = 0#32 then tDefault else t

/-- `expired(n, d)`: `n - d`, 32 bits, read as signed is at least 0 (R807). -/
def expired (n d : Word) : Bool := decide (n - d < 0x80000000#32)

/-! ## Chunks (42_receive.md rule R601) -/

/-- A receive step of `ch` with this chunk is enabled: connected, and `1 ≤ |c| ≤ min(CHUNK_MAX, RX_CAP - |rxbuf ch|)`. -/
def rxEnabled (s : State) (ch : Channel) (chunk : List Byte) : Bool :=
  s.connected && decide (1 ≤ chunk.length)
    && decide (chunk.length ≤ min s.config.chunkMax (s.config.rxCap - (s.rxbuf ch).length))

/-! ## Configured tables and payload offsets -/

/-- `NC_DECODE` (43_dispatch.md rule R701). -/
def ncDecode (c : Config) (b : Byte) : NcMode := c.ncDecode[b.toNat]'(BitVec.isLt b)

/-- A payload that exceeds the minimum length contains every offset (00_scope.md rule R11). -/
theorem offset_lt {c : Config} {n off : Nat} (h : c.statusMinLen < n) (ho : off ≤ c.maxOffset) : off < n := by
  unfold Config.statusMinLen at h
  omega

theorem offBattL_le (c : Config) : c.offBattL ≤ c.maxOffset := by
  unfold Config.maxOffset
  omega

theorem offBattR_le (c : Config) : c.offBattR ≤ c.maxOffset := by
  unfold Config.maxOffset
  omega

theorem offWear_le (c : Config) : c.offWear ≤ c.maxOffset := by
  unfold Config.maxOffset
  omega

theorem offNc_le (c : Config) : c.offNc ≤ c.maxOffset := by
  unfold Config.maxOffset
  omega

/-- `zext_16` of a byte: a battery or level value, stored without a range check (43_dispatch.md rules R702, R705, R706). -/
def levelOf (b : Byte) : Half := b.setWidth 16

/-- The wear bit of a byte: `Wearing` where it is 1 (43_dispatch.md rule R702). -/
def wearOf (c : Config) (b : Byte) : Wear := if b.getLsbD c.wearBit.val then .wearing else .notWearing

end Sys2Proof.Machine
end

