-- ==== Sys2Proof/Machine/Codec.lean ====
section
/-! DEFINITION. The CRC engine (40_crc.md) and the frame codec (41_frame_codec.md): pure functions of the table and the
bytes. -/

namespace Sys2Proof.Machine

/-- `CRC_TABLE` as 40_crc.md rule R401 gives it. -/
abbrev CrcTable := Vector Half 256

/-- `step(c, b) = trunc_16(CRC_TABLE[c[15:8] ^ b] ^ (c << 8))` (R402, R405). -/
def crcStep (t : CrcTable) (c : Half) (b : Byte) : Half :=
  t[(c.extractLsb' 8 8 ^^^ b).toNat]'(BitVec.isLt _) ^^^ (c <<< 8)

/-- `crc_from(c, B)`: the fold of `crcStep` over the bytes (R405). -/
def crcFrom (t : CrcTable) (c : Half) (bytes : List Byte) : Half := bytes.foldl (crcStep t) c

/-- `crc16(B)`: initial value 0x0000, bytes in list order, no final exclusive or (R402, R404). -/
def crc16 (t : CrcTable) (bytes : List Byte) : Half := crcFrom t 0#16 bytes

/-- The bytes `FD` and `DD` that frame a wire packet (R301). -/
def som : Byte := 0xFD#8

@[inherit_doc som]
def eom : Byte := 0xDD#8

/-- The length bytes of a length field: `L[7:0]`, then `L[11:8]` with the reserved nibble 0000 (R302, R501). -/
def lengthBytes (n : Nat) : List Byte :=
  let l : BitVec 12 := BitVec.ofNat 12 n
  [l.extractLsb' 0 8, 0#4 ++ l.extractLsb' 8 4]

/-- `encode(id, payload)` (R501): SOM, length, id, payload, CRC, EOM, with `L = 1 + |payload| + 2`. -/
def encodeFrame (t : CrcTable) (id : Byte) (payload : List Byte) : List Byte :=
  [som] ++ lengthBytes (1 + payload.length + 2) ++ [id] ++ payload ++ halfBytes (crc16 t (id :: payload)) ++ [eom]

/-- A decoded frame: message id and payload, without the CRC (R504). -/
structure Frame where
  id : Byte
  payload : List Byte
  deriving DecidableEq, Repr, Inhabited

/-- `L = len_lo | (len_hi[3:0] << 8)`: the top nibble of the second byte is ignored (R302). -/
def lengthOf (lo hi : Byte) : Nat := (hi.extractLsb' 0 4 ++ lo).toNat

/-- What the scan finds at a candidate (R505). -/
inductive Verdict
  /-- Not all there yet: the tail from the candidate on is kept (R506). -/
  | incomplete
  /-- Abandoned: the scan goes on at the next byte (R507). -/
  | mismatch
  /-- Accepted: the frame, and how many bytes it spans (R509). -/
  | accept (f : Frame) (span : Nat)
  deriving DecidableEq, Repr, Inhabited

/-- The checks on one candidate in the order of R510, `b` being the bytes from the candidate on (its first byte is the start marker): at
least 3 bytes; `L ≥ 3`; the span fits; the end marker; the CRC. -/
def examine (t : CrcTable) (b : List Byte) : Verdict :=
  match b with
  | _ :: lo :: hi :: body =>
    let len := lengthOf lo hi
    if len < 3 then .mismatch
    else if b.length < len + 4 then .incomplete
    else
      match body with
      | [] => .incomplete
      | id :: rest =>
        let payload := rest.take (len - 3)
        match rest.drop (len - 3) with
        | cLo :: cHi :: last :: _ =>
          if last ≠ eom then .mismatch
          else if crc16 t (id :: payload) ≠ halfOf cLo cHi then .mismatch
          else .accept { id := id, payload := payload } (len + 4)
        | _ => .incomplete
  | _ => .incomplete

/-- The scan with `skip` bytes still to pass over, those of an accepted frame (R509). -/
def scanFrom (t : CrcTable) : Nat → List Byte → List Frame × List Byte
  | _, [] => ([], [])
  | skip + 1, _ :: rest => scanFrom t skip rest
  | 0, b :: rest =>
    if b ≠ som then scanFrom t 0 rest
    else
      match examine t (b :: rest) with
      | .incomplete => ([], b :: rest)
      | .mismatch => scanFrom t 0 rest
      | .accept f span =>
        let r := scanFrom t (span - 1) rest
        (f :: r.1, r.2)

/-- `scan(B)` (R505): the frames found, in order, and the remainder to keep. -/
def scan (t : CrcTable) (bytes : List Byte) : List Frame × List Byte := scanFrom t 0 bytes

end Sys2Proof.Machine
end

