-- ==== Sys2Proof/Machine/Dispatcher.lean ====
section
/-! DEFINITION. The message dispatcher (43_dispatch.md), RESOLVE (44_correlator.md rule R804) and the receive step
(42_receive.md rule R601). -/

namespace Sys2Proof.Machine

/-- `resolve(k, v)`: a live wait of kind `k` ends in SUCCESS with the status as it is now, after the frame's writes (R804). -/
def resolve (k : Kind) (v : Byte) (s : State) : State := finishWait k (.success v s.status) s

/-- What a frame that is not ignored does: the status after its writes, and the kind and value it resolves, if any. -/
structure Effect where
  status : DeviceStatus
  signal : Option (Kind × Byte)
  deriving DecidableEq, Repr

/-- `status61(p, old)` (R702): none where the payload does not exceed `STATUS_MIN_LEN`. K0 is resolved where the mode changes. -/
def status61 (c : Config) (p : List Byte) (old : DeviceStatus) : Option Effect :=
  if h : c.statusMinLen < p.length then
    let modeByte := p[c.offNc]'(offset_lt h (offNc_le c))
    let new :=
      { old with
        batteryLeft := levelOf (p[c.offBattL]'(offset_lt h (offBattL_le c)))
        batteryRight := levelOf (p[c.offBattR]'(offset_lt h (offBattR_le c)))
        isWearing := wearOf c (p[c.offWear]'(offset_lt h (offWear_le c)))
        noiseControlMode := ncDecode c modeByte }
    some
      { status := new
        signal := if new.noiseControlMode ≠ old.noiseControlMode then some (.noise, modeByte) else none }
  else none

/-- ACK of 0x78, a noise-control change (R704). -/
def ackNoise (c : Config) (v : Byte) (old : DeviceStatus) : Effect :=
  { status := { old with noiseControlMode := ncDecode c v }, signal := some (.noise, v) }

/-- ACK of 0x83, a noise-reduction level (R705). -/
def ackAncLevel (v : Byte) (old : DeviceStatus) : Effect :=
  { status := { old with ancLevel := levelOf v }, signal := some (.ancLevel, v) }

/-- ACK of 0x84, an ambient level (R706). -/
def ackAmbientLevel (v : Byte) (old : DeviceStatus) : Effect :=
  { status := { old with ambientLevel := levelOf v }, signal := some (.ambientLevel, v) }

/-- `ack42(p)` (R703): none for a payload of fewer than two bytes, and for a first byte that is not 0x78, 0x83 or 0x84. -/
def ack42 (c : Config) (p : List Byte) (old : DeviceStatus) : Option Effect :=
  match p with
  | a :: v :: _ =>
    if a = 0x78#8 then some (ackNoise c v old)
    else if a = 0x83#8 then some (ackAncLevel v old)
    else if a = 0x84#8 then some (ackAmbientLevel v old)
    else none
  | _ => none

/-- Message 0x01 on CMD (R707): none for an empty payload; K3 is resolved with the first byte, uninterpreted; the status is not
written. -/
def test01 (p : List Byte) (old : DeviceStatus) : Option Effect :=
  match p with
  | v :: _ => some { status := old, signal := some (.testConn, v) }
  | [] => none

/-- The match of `dispatch` on channel and message id (R700); every other pair is ignored (R708). -/
def interpret (c : Config) (ch : Channel) (f : Frame) (old : DeviceStatus) : Option Effect :=
  match ch with
  | .data =>
    if f.id = 0x61#8 then status61 c f.payload old
    else if f.id = 0x42#8 then ack42 c f.payload old
    else none
  | .cmd => if f.id = 0x01#8 then test01 f.payload old else none

/-- The status writes of one frame, with `StatusChanged` exactly where the record differs from the one before (R709). -/
def updateStatus (new : DeviceStatus) (s : State) : State :=
  if new = s.status then s else (s.setStatus new).emit (.statusChanged new)

/-- The signal of one frame, if it gives one. -/
def resolveSignal (signal : Option (Kind × Byte)) (s : State) : State :=
  match signal with
  | none => s
  | some (k, v) => resolve k v s

/-- `dispatch(ch, f)` (R700): status writes, then StatusChanged, then the completion. An ignored frame changes nothing (R710). -/
def dispatch (ch : Channel) (s : State) (f : Frame) : State :=
  match interpret s.config ch f s.status with
  | none => s
  | some e => resolveSignal e.signal (updateStatus e.status s)

/-- `RX(ch, c)` where it is enabled (R601): scan, keep the remainder, dispatch the frames in order. -/
def receiveStep (ch : Channel) (chunk : List Byte) (s : State) : State :=
  let r := scan s.config.crcTable (s.rxbuf ch ++ chunk)
  r.1.foldl (dispatch ch) (s.setRxbuf ch r.2)

/-- A chunk offered on channel `ch`: a receive step where one is enabled, and otherwise no step at all: "there is no RX step and the
transport keeps its bytes" (R601; notes/assumptions/4.md). -/
def receive (ch : Channel) (chunk : List Byte) (s : State) : State :=
  if rxEnabled s ch chunk then receiveStep ch chunk s else s

/-- A whole frame arriving on channel `ch` while connected: its wire bytes (R300, R501) received in as many consecutive RX steps as the
transport cuts them into. What they do together does not depend on the cut (41_frame_codec.md rule R515), and one byte at a
time is enabled always (42_receive.md rule R603), so it is the receive step of all of them (notes/assumptions/6.md). -/
def receiveFrame (ch : Channel) (id : Byte) (payload : List Byte) (s : State) : State :=
  if s.connected then receiveStep ch (encodeFrame s.config.crcTable id payload) s else s

/-- RX_ERR: the event, and nothing else; not enabled while disconnected (R602). -/
def receiveError (ch : Channel) (s : State) : State :=
  if s.connected then s.emit (.transportError ch) else s

end Sys2Proof.Machine
end

