-- ==== Sys2Proof/Machine/Flags.lean ====
section
/-! DEFINITION. The status flags (10_state.md rule R115: the connection flag and the four slot states; there are no arithmetic
flags), and the register view S0..S9 of rule R116. -/

namespace Sys2Proof.Machine

/-- `slot_sent(k)`: the slot holds a live wait. -/
def slotSent : Slot → Bool
  | .idle => false
  | .sent _ _ => true

/-- S0 FLAGS: [0] CONNECTED, [1..4] SLOT0_SENT..SLOT3_SENT, [31:5] reserved, 0 (R116, R904). -/
def flagsWord (s : State) : Word :=
  0#27 ++ BitVec.ofBool (slotSent (s.slot .testConn)) ++ BitVec.ofBool (slotSent (s.slot .ambientLevel))
    ++ BitVec.ofBool (slotSent (s.slot .ancLevel)) ++ BitVec.ofBool (slotSent (s.slot .noise))
    ++ BitVec.ofBool s.connected

/-- S3..S6 SLOT[k]: [0] SENT, [16:1] TAG, [48:17] DEADLINE; TAG and DEADLINE read as 0 where SENT = 0 (R116). -/
def slotRegister : Slot → BitVec 49
  | .idle => 0#49
  | .sent deadline tag => deadline ++ tag ++ 1#1

/-- The code of a wear state (R108). -/
def wearCode : Wear → Byte
  | .notWearing => 0#8
  | .wearing => 1#8
  | .unknown => 2#8

/-- The code of a noise control mode (R107). -/
def ncModeCode : NcMode → Byte
  | .off => 0#8
  | .anc => 1#8
  | .ambient => 2#8
  | .adaptive => 3#8
  | .unknown => 4#8

/-- The 12-byte status record (R117). -/
def statusRecord (d : DeviceStatus) : List Byte :=
  halfBytes d.batteryLeft ++ halfBytes d.batteryRight ++ halfBytes d.ambientLevel ++ halfBytes d.ancLevel
    ++ [wearCode d.isWearing, ncModeCode d.noiseControlMode, 0#8, 0#8]

/-- S7 STATUS, 96 bits: the status record, its first byte least significant (R116, R117). -/
def statusRegister (d : DeviceStatus) : BitVec 96 :=
  0#16 ++ ncModeCode d.noiseControlMode ++ wearCode d.isWearing ++ d.ancLevel ++ d.ambientLevel ++ d.batteryRight
    ++ d.batteryLeft

/-- The five status flags, the timer, the tag counter and the status as SNAPSHOT reads them, all in one step (R904). -/
def snapshotOf (s : State) : Snapshot :=
  { status := s.status, flags := flagsWord s, now := s.now, seq := s.seq }

end Sys2Proof.Machine
end

