-- ==== Sys2Proof/Machine/Records.lean ====
section
/-! DEFINITION. The serialised forms of what the block puts out: result words (30_encoding.md rule R314) and events
(60_exceptions.md rule R1012). -/

namespace Sys2Proof.Machine

/-- The CODE of a result (60_exceptions.md rule R1003). -/
def answerCode : Answer → Byte
  | .ok => 0x00#8
  | .registered _ => 0x00#8
  | .snapshot _ => 0x00#8
  | .encodeError => 0x01#8
  | .writeError => 0x02#8
  | .notConnected => 0x03#8
  | .illegal => 0x04#8
  | .stateError => 0x05#8

/-- The TAG of a result: that of the registered wait for an ISSUE with OK, else 0 (R314). -/
def answerTag : Answer → Half
  | .registered tag => tag
  | .ok | .snapshot _ | .encodeError | .writeError | .notConnected | .illegal | .stateError => 0#16

/-- The result word: [7:0] CODE, [15:8] reserved 0, [31:16] TAG (R314). -/
def resultWord (a : Answer) : Word := answerTag a ++ 0#8 ++ answerCode a

/-- The 22 bytes that follow the result word of a SNAPSHOT (R314). -/
def snapshotBytes (x : Snapshot) : List Byte :=
  statusRecord x.status ++ wordBytes x.flags ++ wordBytes x.now ++ halfBytes x.seq

/-- A result as bytes on the host port. -/
def answerBytes (a : Answer) : List Byte :=
  match a with
  | .snapshot x => wordBytes (resultWord a) ++ snapshotBytes x
  | .ok | .registered _ | .encodeError | .writeError | .notConnected | .illegal | .stateError => wordBytes (resultWord a)

/-- The completion code (60_exceptions.md rule R1009). -/
def endingCode : Ending → BitVec 2
  | .success _ _ => 0#2
  | .timeout => 1#2
  | .superseded => 2#2
  | .cancelled => 3#2

/-- The VALUE of a completion: the resolving byte for SUCCESS, 0x00 otherwise (R1008). -/
def endingValue : Ending → Byte
  | .success v _ => v
  | .timeout | .superseded | .cancelled => 0x00#8

/-- The snapshot of a completion: the status after the resolving frame's writes for SUCCESS, absent otherwise (R1008). -/
def endingSnap : Ending → Option DeviceStatus
  | .success _ d => some d
  | .timeout | .superseded | .cancelled => none

/-- The header word of an event on the event port (R1012): [3:0] TYPE; Completion [5:4] KIND, [7:6] CODE, [15:8] VALUE, [31:16]
TAG; TransportError [4] CH. None for TxFrame, which is not on the event port. -/
def eventHeader : Event → Option Word
  | .txFrame _ _ => none
  | .completion k tag e => some (tag ++ endingValue e ++ endingCode e ++ kindBits k ++ 1#4)
  | .statusChanged _ => some 2#32
  | .transportError ch => some (0#27 ++ channelBit ch ++ 3#4)

/-- An event as bytes on its own port: the event port's header word and, where R1012 says so, the status record; a frame's bytes on its
channel's transmit stream. -/
def eventBytes : Event → List Byte
  | .txFrame _ bytes => bytes
  | .completion k tag (.success v d) =>
    wordBytes (tag ++ v ++ endingCode (.success v d) ++ kindBits k ++ 1#4) ++ statusRecord d
  | .completion k tag .timeout => wordBytes (tag ++ 0#8 ++ endingCode .timeout ++ kindBits k ++ 1#4)
  | .completion k tag .superseded => wordBytes (tag ++ 0#8 ++ endingCode .superseded ++ kindBits k ++ 1#4)
  | .completion k tag .cancelled => wordBytes (tag ++ 0#8 ++ endingCode .cancelled ++ kindBits k ++ 1#4)
  | .statusChanged d => wordBytes 2#32 ++ statusRecord d
  | .transportError ch => wordBytes (0#27 ++ channelBit ch ++ 3#4)

end Sys2Proof.Machine
end

