-- ==== Sys2Proof/Machine/Commands.lean ====
section
/-! DEFINITION. The operations of the host commands and of the timer: CONNECT, DISCONNECT, SEND, SNAPSHOT (45_connection.md), ISSUE and
TICK (44_correlator.md). -/

namespace Sys2Proof.Machine

/-- CONNECT (R900). -/
def connectBlock (s : State) : State :=
  if s.connected then s.answer .stateError
  else
    ((((s.setConnected true).setRxbuf .data []).setRxbuf .cmd []).setStatus unknownStatus).answer .ok

/-- DISCONNECT's (c): the status goes back to unknown, with StatusChanged where it was not unknown (R901). It is the write of a status like a
frame's. -/
def forgetStatus (s : State) : State := updateStatus unknownStatus s

/-- DISCONNECT (R901), in its order: (a) the reader stops and in-flight bytes are abandoned, (b) every live wait is cancelled in kind
order, (c) the status goes back to unknown. -/
def disconnectBlock (s : State) : State :=
  if s.connected then
    let stopped := ((s.setConnected false).setRxbuf .data []).setRxbuf .cmd []
    (forgetStatus (forEachKind (fun k => finishWait k .cancelled) stopped)).answer .ok
  else s.answer .ok

/-- SEND (R903): ENCODE_ERROR before NOT_CONNECTED; the frame is handed over whatever the transport answers. -/
def sendFrame (ch : Channel) (id : Byte) (payload : List Byte) (wrOk : Bool) (s : State) : State :=
  if pMax < payload.length then s.answer .encodeError
  else if s.connected then
    (s.emit (.txFrame ch (encodeFrame s.config.crcTable id payload))).answer (if wrOk then .ok else .writeError)
  else s.answer .notConnected

/-- ISSUE's step 3 (R801): the wait is registered with the tag `seq` and the deadline `now + T`. -/
def registerWait (k : Kind) (t : Word) (s : State) : State :=
  ((s.setSeq (s.seq + 1#16)).setSlot k (.sent (s.now + timeoutTicks t) s.seq)).answer (.registered s.seq)

/-- ISSUE (R801; priority of causes R1004): a live wait of the kind is superseded (R803), the frame is written, and the wait is
registered where the transport took the frame. -/
def issueCommand (k : Kind) (t : Word) (payload : List Byte) (wrOk : Bool) (s : State) : State :=
  if timeoutIllegal t then illegalCommand s
  else if pMax < payload.length then s.answer .encodeError
  else if s.connected then
    let frame := encodeFrame s.config.crcTable (kindMessageId k) payload
    let written := (finishWait k .superseded s).emit (.txFrame (kindChannel k) frame)
    if wrOk then registerWait k t written else written.answer .writeError
  else s.answer .notConnected

/-- SNAPSHOT (R904): reads everything in one step and writes nothing. -/
def readSnapshot (s : State) : State := s.answer (.snapshot (snapshotOf s))

/-- The timeout of one kind: a live wait whose deadline is reached ends in TIMEOUT (R806, R807). -/
def expireWait (k : Kind) (s : State) : State :=
  match s.slot k with
  | .idle => s
  | .sent deadline _ => if expired s.now deadline then finishWait k .timeout s else s

/-- TICK (R806): the timer counts, then the waits expire in kind order. -/
def tickTimer (s : State) : State := forEachKind expireWait (s.setNow (s.now + 1#32))

/-- n consecutive TICK inputs (R317). -/
def tickTimes : Nat → State → State
  | 0, s => s
  | n + 1, s => tickTimes n (tickTimer s)

end Sys2Proof.Machine
end

