-- ==== Sys2Proof/Machine/Connection.lean ====
section
/-! DEFINITION. The host commands of 45_connection.md. -/

namespace Sys2Proof.Machine

/-- CONNECT (R900): OK, or STATE_ERROR where already connected. -/
def execConnect (s : State) : Host.Outcome State Fault Refusal := .next (connectBlock s)

/-- DISCONNECT (R901): always OK; no effect while disconnected. -/
def execDisconnect (s : State) : Host.Outcome State Fault Refusal := .next (disconnectBlock s)

/-- SEND (R903): OK, ENCODE_ERROR, NOT_CONNECTED or WRITE_ERROR. -/
def execSend (ch : Channel) (id : Byte) (payload : List Byte) (wrOk : Bool) (s : State) : Host.Outcome State Fault Refusal := .next (sendFrame ch id payload wrOk s)

/-- SNAPSHOT (R904). -/
def execSnapshot (s : State) : Host.Outcome State Fault Refusal := .next (readSnapshot s)

end Sys2Proof.Machine
end

