-- ==== Sys2Proof/Machine/Correlator.lean ====
section
/-! DEFINITION. The command correlator and the timeout timer (44_correlator.md). -/

namespace Sys2Proof.Machine

/-- ISSUE (R801): OK with a tag, ILLEGAL, ENCODE_ERROR, NOT_CONNECTED or WRITE_ERROR. -/
def execIssue (k : Kind) (timeout : Word) (payload : List Byte) (wrOk : Bool) (s : State) : Host.Outcome State Fault Refusal := .next (issueCommand k timeout payload wrOk s)

/-- TICK (R806): enabled always, connected or not. -/
def execTick (s : State) : Host.Outcome State Fault Refusal := .next (tickTimer s)

end Sys2Proof.Machine
end

