-- ==== Sys2Proof/Machine/Illegal.lean ====
section
/-! DEFINITION. The reserved and misplaced OP codes of the host port (30_encoding.md rule R315). -/

namespace Sys2Proof.Machine

/-- A header word with the reserved OP 0x0 on the host port: result ILLEGAL, nothing else (R315). -/
def execIllegalOp0 (_rest : BitVec 28) (s : State) : Host.Outcome State Fault Refusal := .next (illegalCommand s)

/-- A header word with the reserved OP 0x6 on the host port: result ILLEGAL, nothing else (R315). -/
def execIllegalOp6 (_rest : BitVec 28) (s : State) : Host.Outcome State Fault Refusal := .next (illegalCommand s)

/-- A header word with the reserved OP 0x7 on the host port: result ILLEGAL, nothing else (R315). -/
def execIllegalOp7 (_rest : BitVec 28) (s : State) : Host.Outcome State Fault Refusal := .next (illegalCommand s)

/-- A header word with the environment's OP 0x8 on the host port: result ILLEGAL, nothing else (R315). -/
def execIllegalOp8 (_rest : BitVec 28) (s : State) : Host.Outcome State Fault Refusal := .next (illegalCommand s)

/-- A header word with the environment's OP 0x9 on the host port: result ILLEGAL, nothing else (R315). -/
def execIllegalOp9 (_rest : BitVec 28) (s : State) : Host.Outcome State Fault Refusal := .next (illegalCommand s)

/-- A header word with the environment's OP 0xA on the host port: result ILLEGAL, nothing else (R315). -/
def execIllegalOpA (_rest : BitVec 28) (s : State) : Host.Outcome State Fault Refusal := .next (illegalCommand s)

/-- A header word with the reserved OP 0xB on the host port: result ILLEGAL, nothing else (R315). -/
def execIllegalOpB (_rest : BitVec 28) (s : State) : Host.Outcome State Fault Refusal := .next (illegalCommand s)

/-- A header word with the reserved OP 0xC on the host port: result ILLEGAL, nothing else (R315). -/
def execIllegalOpC (_rest : BitVec 28) (s : State) : Host.Outcome State Fault Refusal := .next (illegalCommand s)

/-- A header word with the reserved OP 0xD on the host port: result ILLEGAL, nothing else (R315). -/
def execIllegalOpD (_rest : BitVec 28) (s : State) : Host.Outcome State Fault Refusal := .next (illegalCommand s)

/-- A header word with the reserved OP 0xE on the host port: result ILLEGAL, nothing else (R315). -/
def execIllegalOpE (_rest : BitVec 28) (s : State) : Host.Outcome State Fault Refusal := .next (illegalCommand s)

/-- A header word with the reserved OP 0xF on the host port: result ILLEGAL, nothing else (R315). -/
def execIllegalOpF (_rest : BitVec 28) (s : State) : Host.Outcome State Fault Refusal := .next (illegalCommand s)

end Sys2Proof.Machine
end

