-- ==== Sys2Proof/Machine/Messages.lean ====
section
/-! DEFINITION. The frames of the message catalogue (30_encoding.md rule R307): a received one is the receipt of its wire
bytes, a transmitted one the command that sends it (notes/assumptions/6.md). -/

namespace Sys2Proof.Machine

/-- A frame 0x61, extended status, received on DATA (R702). -/
def execRxStatus (payload : List Byte) (s : State) : Host.Outcome State Fault Refusal := .next (receiveFrame .data 0x61#8 payload s)

/-- A frame 0x42, acknowledgment, received on DATA (R703 to R706). -/
def execRxAck (payload : List Byte) (s : State) : Host.Outcome State Fault Refusal := .next (receiveFrame .data 0x42#8 payload s)

/-- A frame 0x01, connection-test result, received on CMD (R707). -/
def execRxTestResult (payload : List Byte) (s : State) : Host.Outcome State Fault Refusal := .next (receiveFrame .cmd 0x01#8 payload s)

/-- A frame 0x78, noise control, transmitted on DATA: ISSUE of K0 (R801). -/
def execTxNoise (timeout : Word) (payload : List Byte) (wrOk : Bool) (s : State) : Host.Outcome State Fault Refusal := .next (issueCommand .noise timeout payload wrOk s)

/-- A frame 0x83, noise-reduction level, transmitted on DATA: ISSUE of K1 (R801). -/
def execTxAncLevel (timeout : Word) (payload : List Byte) (wrOk : Bool) (s : State) : Host.Outcome State Fault Refusal := .next (issueCommand .ancLevel timeout payload wrOk s)

/-- A frame 0x84, ambient level, transmitted on DATA: ISSUE of K2 (R801). -/
def execTxAmbientLevel (timeout : Word) (payload : List Byte) (wrOk : Bool) (s : State) : Host.Outcome State Fault Refusal := .next (issueCommand .ambientLevel timeout payload wrOk s)

/-- A frame 0x01, connection test, transmitted on CMD: ISSUE of K3 (R801). -/
def execTxTestConn (timeout : Word) (payload : List Byte) (wrOk : Bool) (s : State) : Host.Outcome State Fault Refusal := .next (issueCommand .testConn timeout payload wrOk s)

/-- A frame 0x61, extended-status request, transmitted on DATA: SEND (R903). -/
def execTxStatusRequest (payload : List Byte) (wrOk : Bool) (s : State) : Host.Outcome State Fault Refusal := .next (sendFrame .data 0x61#8 payload wrOk s)

/-- A frame with an id that is not listed for its channel: accepted and ignored (R708). -/
def execRxOther (ch : Channel) (id : Byte) (payload : List Byte) (s : State) : Host.Outcome State Fault Refusal := .next (receiveFrame ch id payload s)

end Sys2Proof.Machine
end

