-- ==== Sys2Proof/Machine/Pseudo.lean ====
section
/-! DEFINITION. The pseudo-instructions (30_encoding.md rule R317), each the effect of its expansion. -/

namespace Sys2Proof.Machine

/-- SET_NOISE b, t = ISSUE K0, t, [b]. -/
def execSetNoise (b : Byte) (timeout : Word) (wrOk : Bool) (s : State) : Host.Outcome State Fault Refusal := .next (issueCommand .noise timeout [b] wrOk s)

/-- SET_ANC b, t = ISSUE K1, t, [b]. -/
def execSetAnc (b : Byte) (timeout : Word) (wrOk : Bool) (s : State) : Host.Outcome State Fault Refusal := .next (issueCommand .ancLevel timeout [b] wrOk s)

/-- SET_AMBIENT b, t = ISSUE K2, t, [b]. -/
def execSetAmbient (b : Byte) (timeout : Word) (wrOk : Bool) (s : State) : Host.Outcome State Fault Refusal := .next (issueCommand .ambientLevel timeout [b] wrOk s)

/-- TEST_CONN t = ISSUE K3, t, []. -/
def execTestConn (timeout : Word) (wrOk : Bool) (s : State) : Host.Outcome State Fault Refusal := .next (issueCommand .testConn timeout [] wrOk s)

/-- REQ_STATUS = SEND DATA, 0x61, []. -/
def execReqStatus (wrOk : Bool) (s : State) : Host.Outcome State Fault Refusal := .next (sendFrame .data 0x61#8 [] wrOk s)

/-- TICK*n: n TICK inputs one after another. -/
def execTicks (n : Nat) (s : State) : Host.Outcome State Fault Refusal := .next (tickTimes n s)

end Sys2Proof.Machine
end

