-- ==== Sys2Proof/Machine/Receive.lean ====
section
/-! DEFINITION. The environment inputs of the transport port (42_receive.md). -/

namespace Sys2Proof.Machine

/-- RX (R601). -/
def execRx (ch : Channel) (chunk : List Byte) (s : State) : Host.Outcome State Fault Refusal := .next (receive ch chunk s)

/-- RX_ERR (R602). -/
def execRxErr (ch : Channel) (s : State) : Host.Outcome State Fault Refusal := .next (receiveError ch s)

end Sys2Proof.Machine
end

