-- ==== Sys2Proof/Machine/Dispatch.lean ====
section
/-! DEFINITION. One arm per row of spec/opcode_table.json. -/

namespace Sys2Proof.Machine

/-- What an instruction does to the block. -/
def exec (i : Instr) (s : State) : Host.Outcome State Fault Refusal :=
  match i with
  | .connect => Sys2Proof.Machine.execConnect s
  | .disconnect => Sys2Proof.Machine.execDisconnect s
  | .send ch id payload wrOk => Sys2Proof.Machine.execSend ch id payload wrOk s
  | .issue k timeout payload wrOk => Sys2Proof.Machine.execIssue k timeout payload wrOk s
  | .snapshot => Sys2Proof.Machine.execSnapshot s
  | .illegalOp0 rest => Sys2Proof.Machine.execIllegalOp0 rest s
  | .illegalOp6 rest => Sys2Proof.Machine.execIllegalOp6 rest s
  | .illegalOp7 rest => Sys2Proof.Machine.execIllegalOp7 rest s
  | .illegalOp8 rest => Sys2Proof.Machine.execIllegalOp8 rest s
  | .illegalOp9 rest => Sys2Proof.Machine.execIllegalOp9 rest s
  | .illegalOpA rest => Sys2Proof.Machine.execIllegalOpA rest s
  | .illegalOpB rest => Sys2Proof.Machine.execIllegalOpB rest s
  | .illegalOpC rest => Sys2Proof.Machine.execIllegalOpC rest s
  | .illegalOpD rest => Sys2Proof.Machine.execIllegalOpD rest s
  | .illegalOpE rest => Sys2Proof.Machine.execIllegalOpE rest s
  | .illegalOpF rest => Sys2Proof.Machine.execIllegalOpF rest s
  | .rx ch chunk => Sys2Proof.Machine.execRx ch chunk s
  | .rxErr ch => Sys2Proof.Machine.execRxErr ch s
  | .tick => Sys2Proof.Machine.execTick s
  | .rxStatus payload => Sys2Proof.Machine.execRxStatus payload s
  | .rxAck payload => Sys2Proof.Machine.execRxAck payload s
  | .rxTestResult payload => Sys2Proof.Machine.execRxTestResult payload s
  | .txNoise timeout payload wrOk => Sys2Proof.Machine.execTxNoise timeout payload wrOk s
  | .txAncLevel timeout payload wrOk => Sys2Proof.Machine.execTxAncLevel timeout payload wrOk s
  | .txAmbientLevel timeout payload wrOk => Sys2Proof.Machine.execTxAmbientLevel timeout payload wrOk s
  | .txTestConn timeout payload wrOk => Sys2Proof.Machine.execTxTestConn timeout payload wrOk s
  | .txStatusRequest payload wrOk => Sys2Proof.Machine.execTxStatusRequest payload wrOk s
  | .rxOther ch id payload => Sys2Proof.Machine.execRxOther ch id payload s
  | .setNoise b timeout wrOk => Sys2Proof.Machine.execSetNoise b timeout wrOk s
  | .setAnc b timeout wrOk => Sys2Proof.Machine.execSetAnc b timeout wrOk s
  | .setAmbient b timeout wrOk => Sys2Proof.Machine.execSetAmbient b timeout wrOk s
  | .testConn timeout wrOk => Sys2Proof.Machine.execTestConn timeout wrOk s
  | .reqStatus wrOk => Sys2Proof.Machine.execReqStatus wrOk s
  | .ticks n => Sys2Proof.Machine.execTicks n s

end Sys2Proof.Machine
end

