-- ==== Sys2Proof/Machine/Step.lean ====
section
/-! DEFINITION. One step of the block: it takes the next input, decodes it and carries it out, whole (00_scope.md rule R8). -/

namespace Sys2Proof.Machine

/-- One input, carried out in the state that waits for the one after it. An illegal host command is answered ILLEGAL, an environment input
that is none of its port's operations is dropped (30_encoding.md rules R311, R315). -/
def stepInput (inp : Input) (s : State) : Host.Outcome State Fault Refusal :=
  match decode inp with
  | .instr i => exec i s
  | .illegal => .next (illegalCommand s)
  | .dropped => .next s
  | .malformed => .refused .malformedTransaction

/-- One step. Where no input has arrived nothing happens (60_exceptions.md rule R1019; notes/assumptions/3.md). -/
def step (s : State) : Host.Outcome State Fault Refusal :=
  match nextInput s with
  | none => .next s
  | some (inp, rest) => stepInput inp rest

/-- `s` with the instruction whose bits the opcode table numbers `w` as the next input, before all that were to come. The block has no
program: this stands for an agent that offers the input (notes/assumptions/7.md). -/
def State.withFetchWord (s : State) (nbits w : Nat) : State := s.setInputs (tableInput nbits w :: s.inputs)

end Sys2Proof.Machine
end

