-- ==== Sys2Proof/Safety.lean ====
section
/-! DEFINITION. The terms the claims about the block are stated in: the invariants the spec gives, what a run has put out, and the explicit
states that commands lead to. -/

namespace Sys2Proof.Machine

/-! ## Invariants -/

/-- What a receive buffer is between steps (10_state.md rule R105): empty, or a partial frame that starts with `FD`. -/
def Retained (b : List Byte) : Prop :=
  match b with
  | [] => True
  | first :: rest =>
    first = 0xFD#8 ∧
      match rest with
      | lo :: hi :: _ => 3 ≤ lengthOf lo hi ∧ b.length < lengthOf lo hi + 4
      | _ => True

/-- Both receive buffers are as R105 says. -/
def BuffersRetained (s : State) : Prop := ∀ ch, Retained (s.rxbuf ch)

/-- The legal values of an i16 level: -1, 0..255 (R106). -/
def LevelLegal (h : Half) : Prop := h = 0xFFFF#16 ∨ h.toNat ≤ 255

/-- The four i16 fields of a status hold legal values (R106). -/
def StatusLegal (d : DeviceStatus) : Prop :=
  LevelLegal d.batteryLeft ∧ LevelLegal d.batteryRight ∧ LevelLegal d.ambientLevel ∧ LevelLegal d.ancLevel

/-- "if `connected = false` then both receive buffers are empty, every slot is `Idle` and `status = UNKNOWN_STATUS`" (70_reset_and_hazards.md
rule R1105). -/
def QuietWhenDisconnected (s : State) : Prop :=
  s.connected = false → (∀ ch, s.rxbuf ch = []) ∧ (∀ k, s.slot k = .idle) ∧ s.status = unknownStatus

/-- No live wait is overdue: its deadline lies 1 to `T_MAX` ticks ahead of the timer (R802, R807). -/
def DeadlinesAhead (s : State) : Prop :=
  ∀ k deadline tag, s.slot k = .sent deadline tag → 1 ≤ (deadline - s.now).toNat ∧ (deadline - s.now).toNat ≤ 0x7FFFFFFF

/-! ## What a run has put out -/

/-- The completions of kind `k` among some events, in order: tag and ending. -/
def completionsOf (k : Kind) : List Event → List (Half × Ending)
  | [] => []
  | .completion k' tag e :: rest => if k' = k then (tag, e) :: completionsOf k rest else completionsOf k rest
  | .txFrame _ _ :: rest => completionsOf k rest
  | .statusChanged _ :: rest => completionsOf k rest
  | .transportError _ :: rest => completionsOf k rest

/-- How many completions carry the tag `g`. -/
def completionsWith (g : Half) : List Event → Nat
  | [] => 0
  | .completion _ tag _ :: rest => (if tag = g then 1 else 0) + completionsWith g rest
  | .txFrame _ _ :: rest => completionsWith g rest
  | .statusChanged _ :: rest => completionsWith g rest
  | .transportError _ :: rest => completionsWith g rest

/-- How many ISSUE commands were answered OK with the tag `g`. -/
def registrationsWith (g : Half) : List Answer → Nat
  | [] => 0
  | .registered tag :: rest => (if tag = g then 1 else 0) + registrationsWith g rest
  | .ok :: rest => registrationsWith g rest
  | .snapshot _ :: rest => registrationsWith g rest
  | .encodeError :: rest => registrationsWith g rest
  | .writeError :: rest => registrationsWith g rest
  | .notConnected :: rest => registrationsWith g rest
  | .illegal :: rest => registrationsWith g rest
  | .stateError :: rest => registrationsWith g rest

/-- 1 where the slot holds a live wait with the tag `g`. -/
def slotHolds (g : Half) : Slot → Nat
  | .idle => 0
  | .sent _ tag => if tag = g then 1 else 0

/-- How many live waits hold the tag `g`. -/
def liveWith (g : Half) (s : State) : Nat :=
  slotHolds g (s.slot .noise) + slotHolds g (s.slot .ancLevel) + slotHolds g (s.slot .ambientLevel)
    + slotHolds g (s.slot .testConn)

/-- Every registered wait is either still live or has had exactly one completion (44_correlator.md rule R805). -/
def OutcomesBalance (s : State) : Prop :=
  ∀ g, registrationsWith g s.answers = completionsWith g s.events + liveWith g s

/-- The StatusChanged events among some events. -/
def statusChanges : List Event → List DeviceStatus
  | [] => []
  | .statusChanged d :: rest => d :: statusChanges rest
  | .txFrame _ _ :: rest => statusChanges rest
  | .completion _ _ _ :: rest => statusChanges rest
  | .transportError _ :: rest => statusChanges rest

/-! ## Explicit states -/

/-- The SUPERSEDED completion an ISSUE of kind `k` emits, if a wait is live (R803). -/
def supersededEvents (k : Kind) (s : State) : List Event :=
  match s.slot k with
  | .idle => []
  | .sent _ tag => [.completion k tag .superseded]

/-- The frame an ISSUE of kind `k` hands to the transport. -/
def issueFrame (k : Kind) (p : List Byte) (s : State) : Event :=
  .txFrame (kindChannel k) (encodeFrame s.config.crcTable (kindMessageId k) p)

/-- After an ISSUE whose frame the transport took (R801): the wait is registered with the tag `seq` and its deadline. -/
def issued (k : Kind) (t : Word) (p : List Byte) (s : State) : State :=
  State.setSlot
    { s with
      events := s.events ++ supersededEvents k s ++ [issueFrame k p s]
      seq := s.seq + 1#16
      answers := s.answers ++ [.registered s.seq] }
    k (.sent (s.now + (if t = 0#32 then 5000#32 else t)) s.seq)

/-- After an ISSUE whose frame the transport did not take (R801): no wait, but the old one is superseded. -/
def issueFailed (k : Kind) (p : List Byte) (s : State) : State :=
  State.setSlot
    { s with
      events := s.events ++ supersededEvents k s ++ [issueFrame k p s]
      answers := s.answers ++ [.writeError] }
    k .idle

/-- After one more result on the host port, and nothing else. -/
def answered (a : Answer) (s : State) : State := { s with answers := s.answers ++ [a] }

/-- After a SEND whose frame was handed to the transport (R903). -/
def sentFrame (ch : Channel) (id : Byte) (p : List Byte) (a : Answer) (s : State) : State :=
  { s with
    events := s.events ++ [.txFrame ch (encodeFrame s.config.crcTable id p)]
    answers := s.answers ++ [a] }

/-- A whole frame with this payload can arrive on `ch` and begin there: connected, nothing retained, and the payload fits a frame. -/
def FrameReceivable (ch : Channel) (p : List Byte) (s : State) : Prop :=
  s.connected = true ∧ s.rxbuf ch = [] ∧ p.length ≤ 4092

/-- After one RX step for each of these bytes, in order (R601, R603). -/
def receivedByteByByte (ch : Channel) (bytes : List Byte) (s : State) : State :=
  bytes.foldl (fun t b => receive ch [b] t) s

/-- After a frame whose status writes give `d` and whose signal is `signal`: StatusChanged where the record differs, then the SUCCESS
completion of the kind's live wait, if there is one (R700, R709, R804). -/
def afterFrame (d : DeviceStatus) (signal : Option (Kind × Byte)) (s : State) : State :=
  let s1 := { s with
    status := d
    events := s.events ++ (if d = s.status then [] else [.statusChanged d]) }
  match signal with
  | none => s1
  | some (k, v) =>
    match s.slot k with
    | .idle => s1
    | .sent _ tag => State.setSlot { s1 with events := s1.events ++ [.completion k tag (.success v d)] } k .idle

/-- A slot after the timer has come to `n`: a live wait with `n - deadline`, read as signed, at least 0 is gone (R806, R807). -/
def slotAt (n : Word) : Slot → Slot
  | .idle => .idle
  | .sent deadline tag => if 0 ≤ (n - deadline).toInt then .idle else .sent deadline tag

/-- The TIMEOUT completion of a slot of kind `k` when the timer comes to `n` (R806). -/
def timeoutAt (n : Word) (k : Kind) : Slot → List Event
  | .idle => []
  | .sent deadline tag => if 0 ≤ (n - deadline).toInt then [.completion k tag .timeout] else []

/-- The CANCELLED completion of a slot of kind `k` at DISCONNECT (R901). -/
def cancelOf (k : Kind) : Slot → List Event
  | .idle => []
  | .sent _ tag => [.completion k tag .cancelled]

/-- The timer and every live deadline moved by the same amount (R1101: every use of `now` is relative). -/
def shiftSlot (n : Word) : Slot → Slot
  | .idle => .idle
  | .sent deadline tag => .sent (deadline + n) tag

@[inherit_doc shiftSlot]
def shiftTime (n : Word) (s : State) : State :=
  { s with
    now := s.now + n
    slotNoise := shiftSlot n s.slotNoise
    slotAncLevel := shiftSlot n s.slotAncLevel
    slotAmbientLevel := shiftSlot n s.slotAmbientLevel
    slotTestConn := shiftSlot n s.slotTestConn }

/-! ## Inputs -/

/-- The kind an instruction is an ISSUE of. -/
def issuedKind : Instr → Option Kind
  | .issue k _ _ _ => some k
  | .txNoise _ _ _ | .setNoise _ _ _ => some .noise
  | .txAncLevel _ _ _ | .setAnc _ _ _ => some .ancLevel
  | .txAmbientLevel _ _ _ | .setAmbient _ _ _ => some .ambientLevel
  | .txTestConn _ _ _ | .testConn _ _ => some .testConn
  | .connect | .disconnect | .send _ _ _ _ | .snapshot | .rx _ _ | .rxErr _ | .tick => none
  | .illegalOp0 _ | .illegalOp6 _ | .illegalOp7 _ | .illegalOp8 _ | .illegalOp9 _ | .illegalOpA _ => none
  | .illegalOpB _ | .illegalOpC _ | .illegalOpD _ | .illegalOpE _ | .illegalOpF _ => none
  | .rxStatus _ | .rxAck _ | .rxTestResult _ | .rxOther _ _ _ | .txStatusRequest _ _ | .reqStatus _ | .ticks _ => none

/-- The channel an instruction brings received bytes on. -/
def receivedOn : Instr → Option Channel
  | .rx ch _ => some ch
  | .rxStatus _ | .rxAck _ => some .data
  | .rxTestResult _ => some .cmd
  | .rxOther ch _ _ => some ch
  | .connect | .disconnect | .send _ _ _ _ | .issue _ _ _ _ | .snapshot | .rxErr _ | .tick => none
  | .illegalOp0 _ | .illegalOp6 _ | .illegalOp7 _ | .illegalOp8 _ | .illegalOp9 _ | .illegalOpA _ => none
  | .illegalOpB _ | .illegalOpC _ | .illegalOpD _ | .illegalOpE _ | .illegalOpF _ => none
  | .txNoise _ _ _ | .txAncLevel _ _ _ | .txAmbientLevel _ _ _ | .txTestConn _ _ _ | .txStatusRequest _ _ => none
  | .setNoise _ _ _ | .setAnc _ _ _ | .setAmbient _ _ _ | .testConn _ _ | .reqStatus _ | .ticks _ => none

/-- The frames a received frame of a message row completes on `ch`: none while disconnected (R601). -/
def framesOfMessage (ch : Channel) (id : Byte) (p : List Byte) (s : State) : List Frame :=
  if s.connected = true then (scan s.config.crcTable (s.rxbuf ch ++ encodeFrame s.config.crcTable id p)).1 else []

/-- The frames an instruction brings to the dispatcher, in scan order: none where its receive is not enabled (R601), and none for an
instruction that brings no bytes. -/
def framesBrought (s : State) : Instr → List Frame
  | .rx ch c => if rxEnabled s ch c = true then (scan s.config.crcTable (s.rxbuf ch ++ c)).1 else []
  | .rxStatus p => framesOfMessage .data 0x61#8 p s
  | .rxAck p => framesOfMessage .data 0x42#8 p s
  | .rxTestResult p => framesOfMessage .cmd 0x01#8 p s
  | .rxOther ch id p => framesOfMessage ch id p s
  | .connect | .disconnect | .send _ _ _ _ | .issue _ _ _ _ | .snapshot | .rxErr _ | .tick => []
  | .illegalOp0 _ | .illegalOp6 _ | .illegalOp7 _ | .illegalOp8 _ | .illegalOp9 _ | .illegalOpA _ => []
  | .illegalOpB _ | .illegalOpC _ | .illegalOpD _ | .illegalOpE _ | .illegalOpF _ => []
  | .txNoise _ _ _ | .txAncLevel _ _ _ | .txAmbientLevel _ _ _ | .txTestConn _ _ _ | .txStatusRequest _ _ => []
  | .setNoise _ _ _ | .setAnc _ _ _ | .setAmbient _ _ _ | .testConn _ _ | .reqStatus _ | .ticks _ => []

/-- A frame received while the status is `old` is the signal kind `k` expects (10_state.md rule R110), with the value `v`: for K0 an ACK of
0x78, or a 0x61 whose mode differs from the old one; for K1 an ACK of 0x83; for K2 an ACK of 0x84; for K3 a test result (R702,
R704 to R707). -/
def Signals (c : Config) (old : DeviceStatus) (f : Frame) (k : Kind) (v : Byte) : Prop :=
  match k with
  | .noise =>
    (f.id = 0x42#8 ∧ ∃ rest, f.payload = 0x78#8 :: v :: rest) ∨
      (f.id = 0x61#8 ∧ c.statusMinLen < f.payload.length ∧ f.payload[c.offNc]? = some v ∧
        ncDecode c v ≠ old.noiseControlMode)
  | .ancLevel => f.id = 0x42#8 ∧ ∃ rest, f.payload = 0x83#8 :: v :: rest
  | .ambientLevel => f.id = 0x42#8 ∧ ∃ rest, f.payload = 0x84#8 :: v :: rest
  | .testConn => f.id = 0x01#8 ∧ ∃ rest, f.payload = v :: rest

/-- One of the frames brought on the channel of kind `k`, dispatched after those before it and while the wait is still as it was, is the
signal the kind expects, with the value `v`; `snap` is the status after that frame's writes (R112, R804). -/
def ResolvedBy (s : State) (frames : List Frame) (k : Kind) (v : Byte) (snap : DeviceStatus) : Prop :=
  ∃ before f after, frames = before ++ f :: after ∧
    (before.foldl (dispatch (kindChannel k)) s).slot k = s.slot k ∧
    Signals s.config (before.foldl (dispatch (kindChannel k)) s).status f k v ∧
    snap = (dispatch (kindChannel k) (before.foldl (dispatch (kindChannel k)) s) f).status

/-- The candidate at the head of `b` is abandoned (41_frame_codec.md rule R507): its length field is complete and either `L < 3`, or its span
fits and fails the end marker or the CRC. -/
def Abandoned (t : CrcTable) (b : List Byte) : Prop :=
  ∃ first lo hi body, b = first :: lo :: hi :: body ∧
    (lengthOf lo hi < 3 ∨
      (lengthOf lo hi + 4 ≤ b.length ∧
        (b[lengthOf lo hi + 3]? ≠ some 0xDD#8 ∨
          ∀ cLo cHi, b[lengthOf lo hi + 1]? = some cLo → b[lengthOf lo hi + 2]? = some cHi →
            crc16 t (body.take (lengthOf lo hi - 2)) ≠ halfOf cLo cHi)))

end Sys2Proof.Machine
end

