-- ==== Sys2Proof/Certificates/Slice0/Obligations.lean ====
section
/-! DEFINITION. The statements for the provers. Each is about the block as the model gives it, over all states, operands and
configurations; its docstring names the rules of spec/ it formalises. -/

open Sys2Proof Sys2Proof.Machine

/-- Inputs and words written out from the encoding tables decode to their rows (30_encoding.md R311, R316; 95_test_vectors.md V-H1 to V-H7; 20_memory.md R203).
The bytes of the vectors V-H1 to V-H7 on the host port (with chosen payload bytes where a vector only counts them), and of RX, RX_ERR and TICK (rule R316) on the transport and timer ports, decode to their instructions. The bare header words of the opcode table decode to the same rows; in those clauses the port, the zero bytes taken for the payload and TIMEOUT behind the word, and wr_ok = true are the model's choice (assumption 7). -/
def Obligations.CatalogueWordsDecode : Prop :=
  (∀ w : Bool,
    decode { port := .host, bytes := [0x01#8, 0x00#8, 0x00#8, 0x00#8], wrOk := w } = .instr .connect ∧
    decode { port := .host, bytes := [0x02#8, 0x00#8, 0x00#8, 0x00#8], wrOk := w } = .instr .disconnect ∧
    decode { port := .host, bytes := [0x03#8, 0x61#8, 0x00#8, 0x00#8], wrOk := w } = .instr (.send .data 0x61#8 [] w) ∧
    decode { port := .host, bytes := [0x13#8, 0x78#8, 0x01#8, 0x00#8, 0xAB#8], wrOk := w } =
      .instr (.send .cmd 0x78#8 [0xAB#8] w) ∧
    decode { port := .host, bytes := [0x04#8, 0x00#8, 0x01#8, 0x00#8, 0x00#8, 0x00#8, 0x00#8, 0x00#8, 0xAB#8], wrOk := w } =
      .instr (.issue .noise 0#32 [0xAB#8] w) ∧
    decode { port := .host, bytes := [0x64#8, 0x00#8, 0x00#8, 0x00#8, 0x03#8, 0x00#8, 0x00#8, 0x00#8], wrOk := w } =
      .instr (.issue .testConn 3#32 [] w) ∧
    decode { port := .host, bytes := [0x05#8, 0x00#8, 0x00#8, 0x00#8], wrOk := w } = .instr .snapshot ∧
    decode { port := .transport, bytes := [0x18#8, 0x00#8, 0x02#8, 0x00#8, 0xFD#8, 0x04#8], wrOk := w } =
      .instr (.rx .cmd [0xFD#8, 0x04#8]) ∧
    decode { port := .transport, bytes := [0x19#8, 0x00#8, 0x00#8, 0x00#8], wrOk := w } = .instr (.rxErr .cmd) ∧
    decode { port := .timer, bytes := [0x0A#8, 0x00#8, 0x00#8, 0x00#8], wrOk := w } = .instr .tick) ∧
  decodeTableWord 32 0x00000001 = some .connect ∧ decodeTableWord 32 0x00000002 = some .disconnect ∧
  decodeTableWord 32 0x00006103 = some (.send .data 0x61#8 [] true) ∧
  decodeTableWord 32 0x00017813 = some (.send .cmd 0x78#8 [0#8] true) ∧
  decodeTableWord 32 0x00010004 = some (.issue .noise 0#32 [0#8] true) ∧
  decodeTableWord 32 0x00000064 = some (.issue .testConn 0#32 [] true) ∧
  decodeTableWord 32 0x00000005 = some .snapshot ∧ decodeTableWord 32 0x00010018 = some (.rx .cmd [0#8]) ∧
  decodeTableWord 32 0x00000019 = some (.rxErr .cmd) ∧ decodeTableWord 32 0x0000000A = some .tick

/-- Decoding the inputs an instruction is encoded as gives the instruction back (30_encoding.md R310, R311, R313, R316, R317; 43_dispatch.md R708).
For every well-formed instruction, with every operand at every value its encoding admits, the inputs it is encoded as decode, one by one, to its expansion: to itself, and for a pseudo-instruction to the core instructions rule R317 expands it to. The byte form of the frame rows is the model's (assumption 6), and so is a pseudo-instruction as one instruction (assumption 12). -/
def Obligations.EncodeThenDecodeGivesExpansion : Prop :=
  ∀ i : Instr, i.wf = true → (encode i).map decode = i.expand.map Decoded.instr

/-- A decoded instruction is well-formed and encodes to the same bytes, on every port (30_encoding.md R307, R310, R311, R313, R315).
Where an input on the host port (R310, R311, R315), the transport or timer port (R311, R313) or a frame port decodes to an instruction, that instruction is well-formed, and its encoding is one input with the same port and the same bytes: no two byte strings are read as one instruction. The frame ports and the byte form of their rows are the model's choice, not the spec's (assumption 6). That an RX, RX_ERR or TICK with a nonzero unused field is no instruction is rule R311's; that it is dropped is read from R311 and R313 (assumption 8). -/
def Obligations.DecodedBytesEncodeBack : Prop :=
  ∀ (inp : Input) (i : Instr), decode inp = .instr i →
    i.wf = true ∧ ∃ j, encode i = [j] ∧ j.port = inp.port ∧ j.bytes = inp.bytes

/-- Illegal host commands answer ILLEGAL and change nothing else; illegal environment inputs are dropped (30_encoding.md R310, R311, R313, R315; 44_correlator.md R802).
A host-port input whose header word has a reserved OP or an environment OP, bit 7 set, or a nonzero field its OP does not use, and an ISSUE with TIMEOUT at least 0x8000_0000, give the result ILLEGAL: nothing else changes and no event is emitted. That this is so whatever bytes stand behind a header word that is illegal by itself is the model's choice (assumption 11). A transport-port input with an OP other than 0x8 and 0x9, and a timer-port input with an OP other than 0xA, is dropped with no state change and no output; and so is an RX, RX_ERR or TICK with bit 7 set or a nonzero field it does not use, which rule R311 makes illegal and the model drops (assumption 8). -/
def Obligations.IllegalHostCommandsAreAnswered : Prop :=
  (∀ (s : State) (w : Word) (tail : List Byte) (wrOk : Bool) (rest : List Input),
    s.inputs = { port := .host, bytes := wordBytes w ++ tail, wrOk := wrOk } :: rest →
    (w.extractLsb' 0 4 = 0#4 ∨ 6#4 ≤ w.extractLsb' 0 4 ∨ w.extractLsb' 7 1 = 1#1 ∨
      ((w.extractLsb' 0 4 = 1#4 ∨ w.extractLsb' 0 4 = 2#4 ∨ w.extractLsb' 0 4 = 5#4) ∧ w.extractLsb' 4 28 ≠ 0#28) ∨
      (w.extractLsb' 0 4 = 3#4 ∧ w.extractLsb' 5 2 ≠ 0#2) ∨
      (w.extractLsb' 0 4 = 4#4 ∧ (w.extractLsb' 4 1 ≠ 0#1 ∨ w.extractLsb' 8 8 ≠ 0#8)) ∨
      (w.extractLsb' 0 4 = 4#4 ∧ ∃ (timeout : Word) (payload : List Byte), tail = wordBytes timeout ++ payload ∧
        payload.length = (w.extractLsb' 16 16).toNat ∧ 0x80000000 ≤ timeout.toNat)) →
    step s = .next (answered .illegal { s with inputs := rest })) ∧
  (∀ (s : State) (w : Word) (tail : List Byte) (wrOk : Bool) (rest : List Input),
    s.inputs = { port := .transport, bytes := wordBytes w ++ tail, wrOk := wrOk } :: rest →
    ((w.extractLsb' 0 4 ≠ 8#4 ∧ w.extractLsb' 0 4 ≠ 9#4) ∨ w.extractLsb' 5 2 ≠ 0#2 ∨ w.extractLsb' 7 1 = 1#1 ∨
      w.extractLsb' 8 8 ≠ 0#8 ∨ (w.extractLsb' 0 4 = 9#4 ∧ w.extractLsb' 16 16 ≠ 0#16)) →
    step s = .next { s with inputs := rest }) ∧
  (∀ (s : State) (w : Word) (tail : List Byte) (wrOk : Bool) (rest : List Input),
    s.inputs = { port := .timer, bytes := wordBytes w ++ tail, wrOk := wrOk } :: rest →
    (w.extractLsb' 0 4 ≠ 10#4 ∨ w.extractLsb' 4 28 ≠ 0#28) → step s = .next { s with inputs := rest })

/-- Each reserved-OP row completes with the result ILLEGAL and no other effect (30_encoding.md R315; opcode_table.json).
Every one of the eleven reserved-OP rows answers a next state, which is the state before it with the result ILLEGAL added on the host port and nothing else changed, whatever the other 28 header bits are. -/
def Obligations.ReservedOpRowsAnswerIllegal : Prop :=
  ∀ (s : State) (r : BitVec 28),
    exec (.illegalOp0 r) s = .next (answered .illegal s) ∧ exec (.illegalOp6 r) s = .next (answered .illegal s) ∧
    exec (.illegalOp7 r) s = .next (answered .illegal s) ∧ exec (.illegalOp8 r) s = .next (answered .illegal s) ∧
    exec (.illegalOp9 r) s = .next (answered .illegal s) ∧ exec (.illegalOpA r) s = .next (answered .illegal s) ∧
    exec (.illegalOpB r) s = .next (answered .illegal s) ∧ exec (.illegalOpC r) s = .next (answered .illegal s) ∧
    exec (.illegalOpD r) s = .next (answered .illegal s) ∧ exec (.illegalOpE r) s = .next (answered .illegal s) ∧
    exec (.illegalOpF r) s = .next (answered .illegal s)

/-- A step takes the next input and runs the instruction it decodes to (00_scope.md R8; 20_memory.md R209).
Where the next input decodes to an instruction i, the step is exec of i at the state whose next input is the one after it, with nothing else done around it. (Every decoded instruction is well-formed: DecodedBytesEncodeBack.) -/
def Obligations.StepRunsTheDecodedInstruction : Prop :=
  ∀ (s : State) (inp : Input) (rest : List Input) (i : Instr),
    s.inputs = inp :: rest → decode inp = .instr i → step s = exec i { s with inputs := rest }

/-- A step takes one input, never a later one, and only adds to what has been put out (00_scope.md R8; 20_memory.md R209, R213; 60_exceptions.md R1007).
After every step the inputs still to come are those after the first, and the events and results already put out stand unchanged before what the step adds. That no input means no change is the model's choice (assumption 3). -/
def Obligations.StepTakesExactlyOneInput : Prop :=
  ∀ s t : State, step s = .next t →
    t.inputs = s.inputs.tail ∧ (∃ evs, t.events = s.events ++ evs) ∧ (∃ ans, t.answers = s.answers ++ ans)

/-- The block never halts on an input that is a whole transaction (60_exceptions.md R1000; 93_implementation_defined.md U22).
Unless the next input is no whole transaction (which the spec does not have; refusing it is the model's choice, assumption 5), every step answers a next state, in every state. -/
def Obligations.StepNeverStopsOnWholeTransactions : Prop :=
  ∀ s : State, (∀ inp rest, s.inputs = inp :: rest → decode inp ≠ .malformed) → ∃ t, step s = .next t

/-- A block exists for a parameter set exactly where it meets the constraints, and has its parameters (00_scope.md R10, R11; 70_reset_and_hazards.md R1103).
A parameter set makes a block if and only if no offset exceeds STATUS_MIN_LEN (rule R11, which refuses the set otherwise) and WEAR_BIT, RX_CAP and CHUNK_MAX lie in the ranges of rules R10 and R1103; that a set outside those ranges makes no block either is the model's choice (assumption 1). The block has the set's own values, and a payload longer than STATUS_MIN_LEN contains every offset. -/
def Obligations.ParameterSetsOutsideTheConstraintAreRefused : Prop :=
  (∀ p : Parameters, (∃ c, Config.ofParameters p = some c) ↔
    (max (max p.offBattL p.offBattR) (max p.offWear p.offNc) ≤ p.statusMinLen ∧ p.wearBit < 8 ∧ 4099 ≤ p.rxCap ∧
      1 ≤ p.chunkMax)) ∧
  (∀ (p : Parameters) (c : Config), Config.ofParameters p = some c →
    c.crcTable = p.crcTable ∧ c.ncDecode = p.ncDecode ∧ c.statusMinLen = p.statusMinLen ∧ c.offBattL = p.offBattL ∧
    c.offBattR = p.offBattR ∧ c.offWear = p.offWear ∧ c.offNc = p.offNc ∧ c.wearBit.val = p.wearBit ∧
    c.rxCap = p.rxCap ∧ c.chunkMax = p.chunkMax) ∧
  (∀ (c : Config) (n : Nat), c.statusMinLen < n → c.offBattL < n ∧ c.offBattR < n ∧ c.offWear < n ∧ c.offNc < n)

/-- The configuration never changes while the block runs (70_reset_and_hazards.md R1103; 10_state.md R102).
No step changes the block's configuration (rule R1103, last sentence). Holding the configuration in the state is the model's choice (assumption 1). -/
def Obligations.ConfigurationNeverChanges : Prop :=
  ∀ s t : State, step s = .next t → t.config = s.config

/-- The state after power-on reset (R119).
After power-on reset the block is disconnected, both receive buffers are empty, the status is UNKNOWN_STATUS, every slot is Idle and seq is 0x0000; of now nothing is said (any u32). Nothing has been put out. -/
def Obligations.ResetLeavesThePowerOnValues : Prop :=
  State.reset.connected = false ∧ State.reset.rxbuf .data = [] ∧ State.reset.rxbuf .cmd = [] ∧
  State.reset.status = { batteryLeft := 0xFFFF#16, batteryRight := 0xFFFF#16, isWearing := .unknown,
                         noiseControlMode := .unknown, ambientLevel := 0xFFFF#16, ancLevel := 0xFFFF#16 } ∧
  (∀ k, State.reset.slot k = .idle) ∧ State.reset.seq = 0x0000#16 ∧ State.reset.events = [] ∧ State.reset.answers = []

/-- The invariants hold after power-on reset (10_state.md R105, R106; 70_reset_and_hazards.md R1105; 44_correlator.md R805, R807).
After reset the receive buffers are as R105 says, the block is quiet because it is disconnected (R1105), the status values are legal (R106), no live wait is overdue (R807) and every registered wait is accounted for (R805). -/
def Obligations.InvariantsHoldAtReset : Prop :=
  BuffersRetained State.reset ∧ QuietWhenDisconnected State.reset ∧ StatusLegal State.reset.status ∧
  DeadlinesAhead State.reset ∧ OutcomesBalance State.reset

/-- Between steps every receive buffer is empty or a partial frame, of at most 4098 bytes (R105).
From every state in which both receive buffers are as R105 says, every step leads to such a state; the reset state is one; and a buffer as R105 says holds at most 4098 bytes. -/
def Obligations.ReceiveBuffersStayPartialFrames : Prop :=
  BuffersRetained State.reset ∧ (∀ s t : State, BuffersRetained s → step s = .next t → BuffersRetained t) ∧
  (∀ b : List Byte, Retained b → b.length ≤ 4098)

/-- While disconnected, the buffers are empty, the slots Idle and the status unknown, in every reachable state (R1105).
The invariant of rule R1105 holds at reset, every step from a state where it holds leads to one where it holds, and it holds after every DISCONNECT from such a state. -/
def Obligations.DisconnectedBlockStaysQuiet : Prop :=
  QuietWhenDisconnected State.reset ∧
  (∀ s t : State, QuietWhenDisconnected s → step s = .next t → QuietWhenDisconnected t) ∧
  (∀ s t : State, QuietWhenDisconnected s → exec .disconnect s = .next t → t.connected = false ∧ QuietWhenDisconnected t)

/-- Battery and level values stay -1 or 0..255 (10_state.md R106; 43_dispatch.md R702, R705, R706).
Every step from a state whose status holds legal values (R106: -1, 0..255) leads to a state whose status holds legal values, whatever bytes were received. -/
def Obligations.StatusValuesStayLegal : Prop :=
  ∀ s t : State, StatusLegal s.status → step s = .next t → StatusLegal t.status

/-- No step leaves a live wait whose deadline has passed (44_correlator.md R802, R806, R807).
From every state in which every live deadline lies 1 to T_MAX ticks ahead of the timer, every step leads to such a state: a wait never outlives its deadline and no deadline lies further ahead than the wrap-safe comparison can tell. -/
def Obligations.NoLiveWaitIsOverdue : Prop :=
  ∀ s t : State, DeadlinesAhead s → step s = .next t → DeadlinesAhead t

/-- For every tag, registrations = completions + live waits, in every state a step leads to (44_correlator.md R805; 10_state.md R111).
From every state in which, tag by tag, the number of ISSUE commands answered OK equals the number of completions emitted plus the number of waits still live, every step leads to such a state: no wait is lost, and none ends twice. -/
def Obligations.EveryRegisteredWaitHasOneOutcome : Prop :=
  ∀ s t : State, OutcomesBalance s → step s = .next t → OutcomesBalance t

/-- Every change of a slot is a transition of the registry's state machine: its input, its completion, its result (10_state.md R110, R111, R112; 44_correlator.md R801, R803, R804, R806; 45_connection.md R901).
For every step and every kind: an Idle slot that stays Idle emits no completion of the kind. Idle to Sent: the input was an ISSUE of the kind whose write the transport took; no completion; the new wait has the tag seq, which is answered. Sent to Idle emits exactly one completion, with the wait's tag: SUCCESS where a frame the input brought is the kind's signal, with its value and the status after it; TIMEOUT where the input was a TICK that reached the deadline; SUPERSEDED, with the result WRITE_ERROR, where it was an ISSUE of the kind whose write failed; CANCELLED where it was DISCONNECT. A Sent slot that stays Sent is untouched and emits none, or the input was an ISSUE of the kind whose write was taken: one SUPERSEDED completion of the old tag, the tag seq for the new. That a received-frame row is one step is the model's choice (assumption 6). -/
def Obligations.SlotsMoveOnlyAsTheStateMachineSays : Prop :=
  ∀ s t : State, step s = .next t → ∀ k : Kind,
    match s.slot k, t.slot k with
    | .idle, .idle => completionsOf k (t.events.drop s.events.length) = []
    | .idle, .sent _ g' =>
      completionsOf k (t.events.drop s.events.length) = [] ∧ g' = s.seq ∧ t.answers = s.answers ++ [.registered g'] ∧
        ∃ inp rest i, s.inputs = inp :: rest ∧ decode inp = .instr i ∧ issuedKind i = some k ∧ inp.wrOk = true
    | .sent d g, .idle =>
      ∃ inp rest i e, s.inputs = inp :: rest ∧ decode inp = .instr i ∧
        completionsOf k (t.events.drop s.events.length) = [(g, e)] ∧
        ((∃ v snap, receivedOn i = some (kindChannel k) ∧ ResolvedBy s (framesBrought s i) k v snap ∧
            e = .success v snap) ∨
          (i = .tick ∧ 0 ≤ (s.now + 1#32 - d).toInt ∧ e = .timeout) ∨
          (issuedKind i = some k ∧ inp.wrOk = false ∧ e = .superseded ∧ t.answers = s.answers ++ [.writeError]) ∨
          (i = .disconnect ∧ e = .cancelled ∧ t.answers = s.answers ++ [.ok]))
    | .sent d g, .sent d' g' =>
      (d' = d ∧ g' = g ∧ completionsOf k (t.events.drop s.events.length) = []) ∨
        (completionsOf k (t.events.drop s.events.length) = [(g, .superseded)] ∧ g' = s.seq ∧
          t.answers = s.answers ++ [.registered g'] ∧
          ∃ inp rest i, s.inputs = inp :: rest ∧ decode inp = .instr i ∧ issuedKind i = some k ∧ inp.wrOk = true)

/-- A wait ends only by its deadline, a matching frame, a newer ISSUE of its kind, or DISCONNECT (70_reset_and_hazards.md R1113, R1114; 10_state.md R110, R112).
Where a step changes a live wait of kind k, the input it took was a TICK that reached the wait's deadline, received bytes on the kind's own channel whose scan, with the bytes retained before them, gives a frame that is dispatched while the wait is live and is the signal the kind expects, an ISSUE of kind k, or DISCONNECT. In particular a transport error ends no wait. That a received-frame row is one step is the model's choice (assumption 6). -/
def Obligations.WaitsEndOnlyForTheFourReasons : Prop :=
  ∀ (s t : State) (k : Kind) (d : Word) (g : Half), step s = .next t → s.slot k = .sent d g → t.slot k ≠ .sent d g →
    ∃ inp rest i, s.inputs = inp :: rest ∧ decode inp = .instr i ∧
      ((i = .tick ∧ 0 ≤ (s.now + 1#32 - d).toInt) ∨ 
        (receivedOn i = some (kindChannel k) ∧ ∃ v snap, ResolvedBy s (framesBrought s i) k v snap) ∨ issuedKind i = some k ∨
        i = .disconnect)

/-- seq advances by one exactly when a wait is registered, which takes the old seq as its tag (R114).
A step either leaves seq as it is and registers nothing, or registers one wait: a slot then holds the tag seq, the result is OK with that tag, and seq becomes seq + 1, 16 bits. -/
def Obligations.TagsCountRegistrations : Prop :=
  ∀ s t : State, step s = .next t →
    (t.seq = s.seq ∧ ∀ g, registrationsWith g t.answers = registrationsWith g s.answers) ∨
      (t.seq = s.seq + 1#16 ∧ t.answers = s.answers ++ [.registered s.seq] ∧ ∃ k d, t.slot k = .sent d s.seq)

/-- Only TICK changes now, by one, connected or not (R113).
A step that takes a TICK input sets now to now + 1, 32 bits (so 0xFFFF_FFFF wraps to 0), whatever the connection flag is; every other step leaves now as it is. -/
def Obligations.OnlyTickMovesTheTimer : Prop :=
  ∀ s t : State, step s = .next t →
    (∀ inp rest, s.inputs = inp :: rest → decode inp = .instr .tick → t.now = s.now + 1#32) ∧
      ((∀ inp rest, s.inputs = inp :: rest → decode inp ≠ .instr .tick) → t.now = s.now)

/-- Moving the timer and all deadlines by one amount changes no step but SNAPSHOT's answer (70_reset_and_hazards.md R1101; 44_correlator.md R801, R806, R807).
Two states that differ only in that the timer and every live deadline of the second are n ticks later take the same step, whatever n is, to two states that differ in the same way, with the same events and results, for every input but SNAPSHOT (whose result holds now itself). -/
def Obligations.NothingDependsOnTheInitialTimer : Prop :=
  ∀ (n : Word) (s t : State), (∀ inp rest, s.inputs = inp :: rest → decode inp ≠ .instr .snapshot) →
    step s = .next t → step (shiftTime n s) = .next (shiftTime n t)

/-- A step that emits no StatusChanged leaves the status as it was; the last one emitted is the status (60_exceptions.md R1010; 43_dispatch.md R709; 45_connection.md R900, R901).
In a state where a disconnected block is quiet (R1105), a step that emits no StatusChanged event leaves the status unchanged, and where it emits some the last carries the status the step leaves. -/
def Obligations.StatusChangesAreReported : Prop :=
  ∀ s t : State, QuietWhenDisconnected s → step s = .next t →
    (statusChanges (t.events.drop s.events.length) = [] → t.status = s.status) ∧
      (∀ d, (statusChanges (t.events.drop s.events.length)).getLast? = some d → t.status = d)

/-- Every TxFrame a step emits is the encoding of one frame within P_MAX (20_memory.md R207; 30_encoding.md R300; 41_frame_codec.md R501, R502).
Whatever a step is, each TxFrame event it adds carries exactly the encoding, with the block's own CRC table, of a message id and a payload of at most 4092 bytes. -/
def Obligations.OnlyWholeFramesAreTransmitted : Prop :=
  ∀ s t : State, step s = .next t → ∀ ch bytes, Event.txFrame ch bytes ∈ t.events.drop s.events.length →
    ∃ id p, p.length ≤ 4092 ∧ bytes = encodeFrame s.config.crcTable id p

/-- The CRC composition law, and the CRC of zero, one and two bytes, for every table (R405; R406).
For every table: crc_from is the fold of step(c, b) = CRC_TABLE[c[15:8] ^ b] ^ (c << 8), crc16(B) = crc_from(0, B), and crc16(A ++ B) = crc_from(crc16(A), B). crc16([]) = 0x0000; crc16([b]) = CRC_TABLE[b]; crc16([a, b]) = CRC_TABLE[CRC_TABLE[a][15:8] ^ b] ^ (zext_16(CRC_TABLE[a][7:0]) << 8). -/
def Obligations.CrcFoldsItsTable : Prop :=
  (∀ t : CrcTable, (∀ c, crcFrom t c [] = c) ∧
    (∀ c b rest, ∀ h : ((c >>> 8).setWidth 8 ^^^ b).toNat < 256,
      crcFrom t c (b :: rest) = crcFrom t (t[((c >>> 8).setWidth 8 ^^^ b).toNat] ^^^ (c <<< 8)) rest) ∧
    (∀ B, crc16 t B = crcFrom t 0#16 B) ∧ (∀ A B, crc16 t (A ++ B) = crcFrom t (crc16 t A) B)) ∧
  (∀ (t : CrcTable) (a b : Byte) (x y : Half), t[a.toNat]? = some x →
    t[((x >>> 8).setWidth 8 ^^^ b).toNat]? = some y →
    crc16 t [] = 0x0000#16 ∧ crc16 t [a] = x ∧ crc16 t [a, b] = y ^^^ (((x.setWidth 8).setWidth 16) <<< 8))

/-- The frame encode builds, byte for byte, and its length (R501).
For a payload of at most 4092 bytes, encode(id, payload) is FD, L[7:0], L[11:8] with the top nibble 0, id, the payload, the CRC of id and payload low byte first, DD, where L = |payload| + 3. -/
def Obligations.EncodeWritesTheWireFormat : Prop :=
  ∀ (t : CrcTable) (id : Byte) (p : List Byte), p.length ≤ 4092 →
    encodeFrame t id p =
      [0xFD#8, BitVec.ofNat 8 ((p.length + 3) % 256), BitVec.ofNat 8 ((p.length + 3) / 256), id] ++ p ++
        [(crc16 t (id :: p)).setWidth 8, (crc16 t (id :: p) >>> 8).setWidth 8, 0xDD#8]

/-- Round trip of the frame codec, for every table (R514).
For every CRC table, every id and every payload of at most 4092 bytes, scanning the encoded frame returns exactly that frame and keeps nothing. -/
def Obligations.DecodeOfEncodeIsTheFrame : Prop :=
  ∀ (t : CrcTable) (id : Byte) (p : List Byte), p.length ≤ 4092 →
    scan t (encodeFrame t id p) = ([{ id := id, payload := p }], [])

/-- A stream of encoded frames scans back to exactly those frames, in order (41_frame_codec.md R509, R511, R514; 20_memory.md R207, R212).
For every CRC table and every list of frames with payloads of at most 4092 bytes, whatever bytes their payloads hold, scanning the concatenation of their encodings returns exactly those frames in order and keeps nothing. -/
def Obligations.FramesBackToBackAreAllRecovered : Prop :=
  ∀ (t : CrcTable) (fs : List Frame), (∀ f ∈ fs, f.payload.length ≤ 4092) →
    scan t (fs.flatMap fun f => encodeFrame t f.id f.payload) = (fs, [])

/-- Chunk invariance of the scan, for every table (R515).
For all byte lists S1 and S2: scanning S1, then the remainder followed by S2, gives the frames of scanning S1 ++ S2, in order, and the same remainder. -/
def Obligations.ScanDoesNotDependOnChunking : Prop :=
  ∀ (t : CrcTable) (S1 S2 : List Byte),
    scan t (S1 ++ S2) =
      ((scan t S1).1 ++ (scan t ((scan t S1).2 ++ S2)).1, (scan t ((scan t S1).2 ++ S2)).2)

/-- A frame cut in two is held back, then delivered once (R518).
For a valid frame cut into two non-empty parts, scanning the first part gives no frame and keeps it whole, and scanning both gives exactly the frame. -/
def Obligations.PartialDeliveryYieldsTheFrameOnce : Prop :=
  ∀ (t : CrcTable) (id : Byte) (p E1 E2 : List Byte), p.length ≤ 4092 → encodeFrame t id p = E1 ++ E2 → E1 ≠ [] →
    E2 ≠ [] → scan t E1 = ([], E1) ∧ scan t (E1 ++ E2) = ([{ id := id, payload := p }], [])

/-- What a scan keeps is empty or a partial frame, of at most 4098 bytes (R512).
For every table and every byte list the remainder is empty, or starts with FD and has fewer than 3 bytes or fewer than L + 4 for its own length field L of at least 3; so it has at most 4098 bytes. -/
def Obligations.ScanRemainderIsAPartialFrame : Prop :=
  ∀ (t : CrcTable) (b : List Byte), Retained (scan t b).2 ∧ (scan t b).2.length ≤ 4098

/-- Bytes that are not FD before the first candidate are skipped and discarded (41_frame_codec.md R508; 41_frame_codec.md R505).
Bytes none of which is FD change nothing when put before a byte list: the frames and the remainder are the same; alone, they give no frame and no remainder. -/
def Obligations.NoiseWithoutAStartMarkerIsDiscarded : Prop :=
  ∀ (t : CrcTable) (n b : List Byte), (∀ x ∈ n, x ≠ 0xFD#8) →
    scan t (n ++ b) = scan t b ∧ scan t n = ([], [])

/-- A candidate that is not all there stops the scan and is kept with everything after it (R506).
From a candidate on: with fewer than 3 bytes (case a), or with a length field L of at least 3 whose span L + 4 does not fit (case b), the scan finds no frame and keeps all the bytes from the candidate on, whatever they hold, after noise without a start marker too. -/
def Obligations.IncompleteCandidateStopsTheScan : Prop :=
  (∀ (t : CrcTable) (n b : List Byte), (∀ x ∈ n, x ≠ 0xFD#8) → b.length < 2 →
    scan t (n ++ 0xFD#8 :: b) = ([], 0xFD#8 :: b)) ∧
  (∀ (t : CrcTable) (n : List Byte) (lo hi : Byte) (b : List Byte), (∀ x ∈ n, x ≠ 0xFD#8) →
    3 ≤ lo.toNat + 256 * (hi.toNat % 16) → b.length + 3 < lo.toNat + 256 * (hi.toNat % 16) + 4 →
    scan t (n ++ 0xFD#8 :: lo :: hi :: b) = ([], 0xFD#8 :: lo :: hi :: b))

/-- A mismatching candidate is passed over by one byte, in each of the three cases (R507).
Where L < 3, or the span fits and its last byte is not DD, or the span fits and the CRC of id and payload is not the received one, scanning from the candidate is scanning from the byte after it. -/
def Obligations.AbandonedCandidateResyncsAtTheNextByte : Prop :=
  ∀ (t : CrcTable) (b : List Byte), Abandoned t (0xFD#8 :: b) → scan t (0xFD#8 :: b) = scan t b

/-- A frame whose two CRC bytes are not its CRC is rejected, whatever the table is (40_crc.md R407; 41_frame_codec.md R516).
For every table: a frame of at most 4092 payload bytes with any other two bytes in place of its CRC, followed by any bytes, scans as the same bytes without its start marker: the frame is not returned and the scan resyncs at its SOM + 1. -/
def Obligations.AlteredCrcFieldRejectsTheFrame : Prop :=
  ∀ (t : CrcTable) (id : Byte) (p : List Byte) (cLo cHi : Byte) (rest : List Byte), p.length ≤ 4092 →
    halfOf cLo cHi ≠ crc16 t (id :: p) →
    scan t ([0xFD#8] ++ lengthBytes (p.length + 3) ++ [id] ++ p ++ [cLo, cHi, 0xDD#8] ++ rest) =
      scan t (lengthBytes (p.length + 3) ++ [id] ++ p ++ [cLo, cHi, 0xDD#8] ++ rest)

/-- The resynchronisation law in its precise form (R517).
Let S = N1 ++ encode(f) ++ N2 with a valid frame f. If every FD in N1 is abandoned (R507) where it stands in S, scan(S) returns f first, and what the scan of N2 returns after it; if moreover the scan of N2 returns no frame, the frames are exactly [f]. -/
def Obligations.ResyncFindsTheFrameInNoise : Prop :=
  ∀ (t : CrcTable) (N1 N2 : List Byte) (id : Byte) (p : List Byte), p.length ≤ 4092 →
    (∀ i, N1[i]? = some 0xFD#8 → Abandoned t ((N1 ++ encodeFrame t id p ++ N2).drop i)) →
    (scan t (N1 ++ encodeFrame t id p ++ N2)).1 = { id := id, payload := p } :: (scan t N2).1 ∧
      ((scan t N2).1 = [] → (scan t (N1 ++ encodeFrame t id p ++ N2)).1 = [{ id := id, payload := p }])

/-- RX: scan the retained bytes and the chunk, keep the remainder, dispatch the frames in order (42_receive.md R601; 20_memory.md R204; 43_dispatch.md R700).
Where RX is enabled (connected, and 1 ≤ |c| ≤ min(CHUNK_MAX, RX_CAP - |rxbuf|)) it completes: the receive buffer of its channel becomes the scan's remainder and the frames are dispatched in scan order, each in the state the one before it left; nothing else changes. (Where RX is not enabled: ReceiveNotEnabledChangesNothing.) -/
def Obligations.ReceiveScansAndDispatches : Prop :=
  ∀ (s : State) (ch : Channel) (c : List Byte), s.connected = true → 1 ≤ c.length →
    c.length ≤ min s.config.chunkMax (s.config.rxCap - (s.rxbuf ch).length) →
    exec (.rx ch c) s =
      .next ((scan s.config.crcTable (s.rxbuf ch ++ c)).1.foldl (dispatch ch)
        (s.setRxbuf ch (scan s.config.crcTable (s.rxbuf ch ++ c)).2))

/-- An RX that is not enabled is turned away with no effect (the model's choice, assumption 4) (42_receive.md R601; 95_test_vectors.md V-R1, V-R4).
Where RX is not enabled, the offered chunk is turned away: the state is as before. The same holds of a whole frame offered while disconnected. That the offer is spent is the model's choice (assumption 4); the spec says there is no RX step and the transport keeps its bytes. -/
def Obligations.ReceiveNotEnabledChangesNothing : Prop :=
  (∀ (s : State) (ch : Channel) (c : List Byte),
    (s.connected = false ∨ c.length = 0 ∨ s.config.chunkMax < c.length ∨ s.config.rxCap - (s.rxbuf ch).length < c.length) →
    exec (.rx ch c) s = .next s) ∧
  (∀ (s : State) (ch : Channel) (id : Byte) (p : List Byte), s.connected = false →
    exec (.rxStatus p) s = .next s ∧ exec (.rxAck p) s = .next s ∧ exec (.rxTestResult p) s = .next s ∧
      exec (.rxOther ch id p) s = .next s)

/-- What a receive step can change, whatever bytes it brings (43_dispatch.md R700, R710; 42_receive.md R601; 10_state.md R104).
Whatever bytes an RX brings on channel ch: the connection flag, the timer, seq, the results, the inputs, the configuration and the other channel's buffer are unchanged; a slot is unchanged or becomes Idle; and every event it adds is a StatusChanged or a SUCCESS completion of a kind whose channel is ch. -/
def Obligations.ReceiveTouchesOnlyItsOwnState : Prop :=
  ∀ (s t : State) (ch : Channel) (c : List Byte), exec (.rx ch c) s = .next t →
    t.config = s.config ∧ t.connected = s.connected ∧ t.now = s.now ∧ t.seq = s.seq ∧ t.inputs = s.inputs ∧
    t.answers = s.answers ∧ (∀ ch', ch' ≠ ch → t.rxbuf ch' = s.rxbuf ch') ∧
    (∀ k, t.slot k = s.slot k ∨ t.slot k = .idle) ∧
    ∃ evs, t.events = s.events ++ evs ∧ ∀ e ∈ evs,
      (∃ d, e = .statusChanged d) ∨ (∃ k g v d, e = .completion k g (.success v d) ∧ kindChannel k = ch)

/-- No received bytes stop the reader: after every RX one more byte can be received on either channel (42_receive.md R603; 20_memory.md R204).
In a connected state whose receive buffers are as R105 says, after an RX of any bytes on any channel a one-byte chunk is enabled on both channels, for every RX_CAP and CHUNK_MAX the spec allows. -/
def Obligations.ReceiveIsEnabledAgainAfterEveryReceive : Prop :=
  ∀ (s t : State) (ch : Channel) (c : List Byte), s.connected = true → BuffersRetained s → exec (.rx ch c) s = .next t →
    ∀ (ch' : Channel) (b : Byte), ∃ u, exec (.rx ch' [b]) t = .next u ∧ rxEnabled t ch' [b] = true ∧ u.connected = true

/-- Receiving two chunks one after the other is receiving them as one (42_receive.md R604; 41_frame_codec.md R515).
Where all three receives are enabled, RX of c1 followed by RX of c2 on the same channel leads to the same state, with the same status, slots, retained bytes and event stream, as one RX of c1 ++ c2. -/
def Obligations.ChunkingIsUnobservable : Prop :=
  ∀ (s t u : State) (ch : Channel) (c1 c2 : List Byte), rxEnabled s ch c1 = true → rxEnabled t ch c2 = true →
    rxEnabled s ch (c1 ++ c2) = true → exec (.rx ch c1) s = .next t → exec (.rx ch c2) t = .next u →
    exec (.rx ch (c1 ++ c2)) s = .next u

/-- A received-frame row does what RX steps of its wire bytes do, and delivers its frame (30_encoding.md R307; 42_receive.md R601, R603; 41_frame_codec.md R514, R515).
In a connected state whose buffers are as R105 says, each received-frame row completes, and does what the RX steps of its wire bytes one by one do, each of which is enabled. Where nothing is retained on its channel and the payload fits a frame, it completes as the dispatch of exactly its frame. That these rows stand for RX steps of the encoded frame is the model's choice (assumption 6). -/
def Obligations.ReceivedFrameRowsDeliverTheirFrame : Prop :=
  (∀ (s : State) (ch : Channel) (id : Byte) (p : List Byte), s.connected = true → BuffersRetained s →
    exec (.rxStatus p) s = .next (receivedByteByByte .data (encodeFrame s.config.crcTable 0x61#8 p) s) ∧
    exec (.rxAck p) s = .next (receivedByteByByte .data (encodeFrame s.config.crcTable 0x42#8 p) s) ∧
    exec (.rxTestResult p) s = .next (receivedByteByByte .cmd (encodeFrame s.config.crcTable 0x01#8 p) s) ∧
    exec (.rxOther ch id p) s = .next (receivedByteByByte ch (encodeFrame s.config.crcTable id p) s)) ∧
  (∀ (s : State) (ch : Channel) (bytes : List Byte), s.connected = true → BuffersRetained s →
    ∀ (n : Nat) (b : Byte), bytes[n]? = some b → rxEnabled (receivedByteByByte ch (bytes.take n) s) ch [b] = true) ∧
  (∀ (s : State) (p : List Byte), FrameReceivable .data p s →
    exec (.rxStatus p) s = .next (dispatch .data s { id := 0x61#8, payload := p }) ∧
    exec (.rxAck p) s = .next (dispatch .data s { id := 0x42#8, payload := p })) ∧
  (∀ (s : State) (p : List Byte), FrameReceivable .cmd p s →
    exec (.rxTestResult p) s = .next (dispatch .cmd s { id := 0x01#8, payload := p })) ∧
  (∀ (s : State) (ch : Channel) (id : Byte) (p : List Byte), FrameReceivable ch p s →
    exec (.rxOther ch id p) s = .next (dispatch ch s { id := id, payload := p }))

/-- RX_ERR emits TransportError and changes nothing else; it has no effect while disconnected (42_receive.md R602; 60_exceptions.md R1010).
While connected, RX_ERR completes: one TransportError event of its channel is emitted and nothing else changes. While disconnected, where the spec has no such step, the input is spent with no effect (the model's choice, assumption 4). -/
def Obligations.ReadErrorIsOnlyAnEvent : Prop :=
  ∀ (s : State) (ch : Channel),
    (s.connected = true → exec (.rxErr ch) s = .next { s with events := s.events ++ [.transportError ch] }) ∧
      (s.connected = false → exec (.rxErr ch) s = .next s)

/-- The frame 0x61 on DATA (R702).
In every state, dispatching a frame 0x61 received on DATA: a payload of at most STATUS_MIN_LEN bytes changes nothing. A longer one sets the two batteries (zero-extended), the wear state (by WEAR_BIT) and the noise control mode from its configured offsets and leaves both levels; StatusChanged follows where the record differs, and a pending K0 is resolved with the mode byte exactly where the mode differs. -/
def Obligations.ExtendedStatusFrameUpdatesTheStatus : Prop :=
  ∀ (s : State) (p : List Byte),
    (p.length ≤ s.config.statusMinLen → dispatch .data s { id := 0x61#8, payload := p } = s) ∧
    (s.config.statusMinLen < p.length → ∀ bl br bw bm : Byte,
      p[s.config.offBattL]? = some bl → p[s.config.offBattR]? = some br → p[s.config.offWear]? = some bw →
      p[s.config.offNc]? = some bm →
      dispatch .data s { id := 0x61#8, payload := p } =
        afterFrame
          { s.status with
            batteryLeft := bl.setWidth 16
            batteryRight := br.setWidth 16
            isWearing := if bw.getLsbD s.config.wearBit.val = true then .wearing else .notWearing
            noiseControlMode := ncDecode s.config bm }
          (if ncDecode s.config bm = s.status.noiseControlMode then none else some (.noise, bm)) s)

/-- The frame 0x42 on DATA (R703; R704; R705; R706).
In every state, dispatching a frame 0x42 received on DATA. First byte 0x78: the mode becomes NC_DECODE of the second and K0 is resolved with it, changed or not. 0x83: anc_level becomes the zero-extended second byte and K1 is resolved. 0x84: the same for ambient_level and K2. Fewer than two bytes, or another first byte: nothing changes. Bytes after the second do not matter. -/
def Obligations.AcknowledgmentFrameUpdatesAndResolves : Prop :=
  ∀ s : State,
    (∀ v rest, dispatch .data s { id := 0x42#8, payload := 0x78#8 :: v :: rest } =
      afterFrame { s.status with noiseControlMode := ncDecode s.config v } (some (.noise, v)) s) ∧
    (∀ v rest, dispatch .data s { id := 0x42#8, payload := 0x83#8 :: v :: rest } =
      afterFrame { s.status with ancLevel := v.setWidth 16 } (some (.ancLevel, v)) s) ∧
    (∀ v rest, dispatch .data s { id := 0x42#8, payload := 0x84#8 :: v :: rest } =
      afterFrame { s.status with ambientLevel := v.setWidth 16 } (some (.ambientLevel, v)) s) ∧
    (∀ p : List Byte, p.length < 2 → dispatch .data s { id := 0x42#8, payload := p } = s) ∧
    (∀ a v rest, a ≠ 0x78#8 → a ≠ 0x83#8 → a ≠ 0x84#8 →
      dispatch .data s { id := 0x42#8, payload := a :: v :: rest } = s)

/-- The frame 0x01 on CMD (R707).
In every state, dispatching a frame 0x01 received on CMD: a payload of at least one byte resolves K3 with its first byte, uninterpreted, and writes no status; an empty payload changes nothing. -/
def Obligations.TestResultFrameResolvesTheTest : Prop :=
  ∀ s : State,
    (∀ v rest, dispatch .cmd s { id := 0x01#8, payload := v :: rest } = afterFrame s.status (some (.testConn, v)) s) ∧
    dispatch .cmd s { id := 0x01#8, payload := [] } = s

/-- Every other (channel, message id) pair is accepted and ignored (R708).
In every state, dispatching a frame whose id is not 0x61 or 0x42 on DATA, or not 0x01 on CMD, changes nothing, whatever its payload. -/
def Obligations.UnlistedMessagesAreIgnored : Prop :=
  (∀ (s : State) (f : Frame), f.id ≠ 0x61#8 → f.id ≠ 0x42#8 → dispatch .data s f = s) ∧
  (∀ (s : State) (f : Frame), f.id ≠ 0x01#8 → dispatch .cmd s f = s)

/-- One frame emits StatusChanged exactly when the record differs, then at most one completion (R709).
Dispatching any frame on any channel in any state emits first one StatusChanged with the new record where it differs from the old one in any field, and none otherwise; then at most one completion, which is a SUCCESS with the status after the frame's writes. -/
def Obligations.DispatchReportsEachChangeOnce : Prop :=
  ∀ (ch : Channel) (s : State) (f : Frame),
    ∃ tail, (dispatch ch s f).events =
        s.events ++ (if (dispatch ch s f).status = s.status then [] else [.statusChanged (dispatch ch s f).status]) ++ tail ∧
      (tail = [] ∨ ∃ k g v, tail = [.completion k g (.success v (dispatch ch s f).status)])

/-- CONNECT (R900).
CONNECT completes in every state. Disconnected: connected becomes true, both buffers empty and the status unknown, the result is OK, no event is emitted and now, seq and the slots stay. Connected: the result is STATE_ERROR and nothing else changes. -/
def Obligations.ConnectStartsUnknown : Prop :=
  ∀ s : State,
    (s.connected = false → exec .connect s =
      .next { s with
        connected := true
        rxData := []
        rxCmd := []
        status := unknownStatus
        answers := s.answers ++ [.ok] }) ∧
      (s.connected = true → exec .connect s = .next (answered .stateError s))

/-- DISCONNECT (R901).
DISCONNECT completes in every state with OK. Connected: the flag is cleared, both buffers are emptied, every live wait is cancelled in kind order K0..K3, the status goes back to unknown and StatusChanged follows where it was not unknown; now and seq stay. Disconnected: nothing else changes. -/
def Obligations.DisconnectStopsCancelsAndForgets : Prop :=
  ∀ s : State,
    (s.connected = true → exec .disconnect s =
      .next { s with
        connected := false
        rxData := []
        rxCmd := []
        slotNoise := .idle
        slotAncLevel := .idle
        slotAmbientLevel := .idle
        slotTestConn := .idle
        status := unknownStatus
        events := s.events ++ Kind.all.flatMap (fun k => cancelOf k (s.slot k)) ++
          (if s.status = unknownStatus then [] else [.statusChanged unknownStatus])
        answers := s.answers ++ [.ok] }) ∧
      (s.connected = false → exec .disconnect s = .next (answered .ok s))

/-- The status reset law (R902).
In every state where a disconnected block is quiet (R1105), DISCONNECT completes, leaves the status unknown and every slot Idle, and emits for every kind exactly one completion, CANCELLED with the wait's tag, where its wait was live, and none where it was not. -/
def Obligations.DisconnectLeavesNoWaitHanging : Prop :=
  ∀ s : State, QuietWhenDisconnected s → ∃ t, exec .disconnect s = .next t ∧ t.status = unknownStatus ∧
    (∀ k, t.slot k = .idle) ∧
    ∀ k, completionsOf k (t.events.drop s.events.length) =
      match s.slot k with
      | .idle => []
      | .sent _ g => [(g, .cancelled)]

/-- SEND (R903).
SEND completes in every state. More than 4092 payload bytes: ENCODE_ERROR, else disconnected: NOT_CONNECTED, in both cases nothing else. Otherwise one TxFrame with the encoded frame is emitted on its channel and the result is OK or WRITE_ERROR as the transport answers; no slot, status or buffer changes. -/
def Obligations.SendTransmitsOneFrame : Prop :=
  ∀ (s : State) (ch : Channel) (id : Byte) (p : List Byte) (wrOk : Bool),
    (4092 < p.length → exec (.send ch id p wrOk) s = .next (answered .encodeError s)) ∧
    (p.length ≤ 4092 → s.connected = false → exec (.send ch id p wrOk) s = .next (answered .notConnected s)) ∧
    (p.length ≤ 4092 → s.connected = true → exec (.send ch id p true) s = .next (sentFrame ch id p .ok s)) ∧
    (p.length ≤ 4092 → s.connected = true → exec (.send ch id p false) s = .next (sentFrame ch id p .writeError s))

/-- ISSUE, with its timeout and the order of its checks (R801; R802).
ISSUE completes in every state. TIMEOUT at least 0x8000_0000: ILLEGAL; else more than 4092 payload bytes: ENCODE_ERROR; else disconnected: NOT_CONNECTED; each with no other effect. Otherwise a live wait of the kind is superseded, the frame is emitted on the kind's channel with its message id, and, where the transport takes it, the slot becomes Sent with the tag seq and the deadline now + T (T = 5000 for TIMEOUT 0), seq advances and the result is OK with the tag; where it does not, the slot is Idle, seq stays and the result is WRITE_ERROR. Other kinds' slots never change. -/
def Obligations.IssueSupersedesSendsAndRegisters : Prop :=
  ∀ (s : State) (k : Kind) (t : Word) (p : List Byte) (wrOk : Bool),
    (0x80000000 ≤ t.toNat → exec (.issue k t p wrOk) s = .next (answered .illegal s)) ∧
    (t.toNat ≤ 0x7FFFFFFF → 4092 < p.length → exec (.issue k t p wrOk) s = .next (answered .encodeError s)) ∧
    (t.toNat ≤ 0x7FFFFFFF → p.length ≤ 4092 → s.connected = false →
      exec (.issue k t p wrOk) s = .next (answered .notConnected s)) ∧
    (t.toNat ≤ 0x7FFFFFFF → p.length ≤ 4092 → s.connected = true →
      exec (.issue k t p true) s = .next (issued k t p s)) ∧
    (t.toNat ≤ 0x7FFFFFFF → p.length ≤ 4092 → s.connected = true →
      exec (.issue k t p false) s = .next (issueFailed k p s))

/-- The transmitted frame rows and the pseudo-instructions are the ISSUE and SEND they stand for (10_state.md R110; 30_encoding.md R307, R317; 44_correlator.md R801; 45_connection.md R903).
On a connected block, with a legal TIMEOUT, a payload within P_MAX and a transport that takes the frame, each transmitted-frame row and each pseudo-instruction completes as the ISSUE of its kind (K0: 0x78 on DATA, K1: 0x83 on DATA, K2: 0x84 on DATA, K3: 0x01 on CMD) or as the SEND of 0x61 on DATA (rule R903). In every state, errors and transport failures included, each acts as that command. The pseudo-instructions have rule R317's expansions; that each is one instruction is the model's choice (assumption 12), and so is that a frame row takes a TIMEOUT operand (assumption 6). -/
def Obligations.KindsSendTheirCatalogueFrames : Prop :=
  (∀ (s : State) (b : Byte) (t : Word) (p : List Byte) (w : Bool),
    exec (.setNoise b t w) s = exec (.issue .noise t [b] w) s ∧
    exec (.setAnc b t w) s = exec (.issue .ancLevel t [b] w) s ∧
    exec (.setAmbient b t w) s = exec (.issue .ambientLevel t [b] w) s ∧
    exec (.testConn t w) s = exec (.issue .testConn t [] w) s ∧
    exec (.reqStatus w) s = exec (.send .data 0x61#8 [] w) s ∧
    exec (.txNoise t p w) s = exec (.issue .noise t p w) s ∧
    exec (.txAncLevel t p w) s = exec (.issue .ancLevel t p w) s ∧
    exec (.txAmbientLevel t p w) s = exec (.issue .ambientLevel t p w) s ∧
    exec (.txTestConn t p w) s = exec (.issue .testConn t p w) s ∧
    exec (.txStatusRequest p w) s = exec (.send .data 0x61#8 p w) s) ∧
  (∀ (s : State) (t : Word) (p : List Byte) (b : Byte), s.connected = true → t.toNat ≤ 0x7FFFFFFF → p.length ≤ 4092 →
    exec (.txNoise t p true) s = .next (issued .noise t p s) ∧
    exec (.txAncLevel t p true) s = .next (issued .ancLevel t p s) ∧
    exec (.txAmbientLevel t p true) s = .next (issued .ambientLevel t p s) ∧
    exec (.txTestConn t p true) s = .next (issued .testConn t p s) ∧
    exec (.txStatusRequest p true) s = .next (sentFrame .data 0x61#8 p .ok s) ∧
    exec (.setNoise b t true) s = .next (issued .noise t [b] s) ∧
    exec (.setAnc b t true) s = .next (issued .ancLevel t [b] s) ∧
    exec (.setAmbient b t true) s = .next (issued .ambientLevel t [b] s) ∧
    exec (.testConn t true) s = .next (issued .testConn t [] s) ∧
    exec (.reqStatus true) s = .next (sentFrame .data 0x61#8 [] .ok s)) ∧
  (kindChannel .noise = .data ∧ kindMessageId .noise = 0x78#8 ∧ kindChannel .ancLevel = .data ∧
    kindMessageId .ancLevel = 0x83#8 ∧ kindChannel .ambientLevel = .data ∧ kindMessageId .ambientLevel = 0x84#8 ∧
    kindChannel .testConn = .cmd ∧ kindMessageId .testConn = 0x01#8)

/-- SNAPSHOT (R904).
SNAPSHOT completes in every state: its result holds the status, FLAGS = connected | the slot_sent(k) << (k+1), now and seq of that one state, and nothing else changes. -/
def Obligations.SnapshotReadsEverythingAtOnce : Prop :=
  ∀ s : State, exec .snapshot s =
    .next (answered
      (.snapshot
        { status := s.status
          flags := BitVec.ofNat 32
            ((if s.connected = true then 1 else 0) + (if s.slot .noise = .idle then 0 else 2) +
              (if s.slot .ancLevel = .idle then 0 else 4) + (if s.slot .ambientLevel = .idle then 0 else 8) +
              (if s.slot .testConn = .idle then 0 else 16))
          now := s.now
          seq := s.seq }) s)

/-- TICK (R806).
TICK completes in every state: now becomes now + 1, every live wait whose now - deadline, read as a signed 32-bit number, is then at least 0 ends in TIMEOUT, its slot becoming Idle and its completion being emitted in kind order K0..K3; nothing else changes. -/
def Obligations.TickCountsAndExpires : Prop :=
  ∀ s : State, exec .tick s =
    .next { s with
      now := s.now + 1#32
      slotNoise := slotAt (s.now + 1#32) s.slotNoise
      slotAncLevel := slotAt (s.now + 1#32) s.slotAncLevel
      slotAmbientLevel := slotAt (s.now + 1#32) s.slotAmbientLevel
      slotTestConn := slotAt (s.now + 1#32) s.slotTestConn
      events := s.events ++ Kind.all.flatMap (fun k => timeoutAt (s.now + 1#32) k (s.slot k)) }

/-- A wait of T ticks is live after j < T ticks and ends in TIMEOUT on the T-th (44_correlator.md R806, R807; 30_encoding.md R317).
For a wait registered T ticks ahead of the timer, 1 ≤ T ≤ T_MAX, whatever the timer is: TICK*j with j < T completes and leaves it as it is; TICK*T completes, leaves the slot Idle and has emitted exactly one completion of the kind, TIMEOUT with the wait's tag. TICK*j stands here for j TICK inputs as one instruction, which is the model's choice (assumption 12); TickStarIsThatManyTickInputs says that they are the same. -/
def Obligations.WaitTimesOutOnExactlyItsLastTick : Prop :=
  ∀ (s : State) (k : Kind) (g : Half) (T : Word), s.slot k = .sent (s.now + T) g → 1 ≤ T.toNat → T.toNat ≤ 0x7FFFFFFF →
    (∀ j, j < T.toNat → ∃ t, exec (.ticks j) s = .next t ∧ t.slot k = .sent (s.now + T) g ∧
      t.now = s.now + BitVec.ofNat 32 j ∧ completionsOf k (t.events.drop s.events.length) = []) ∧
    (∃ t, exec (.ticks T.toNat) s = .next t ∧ t.slot k = .idle ∧ t.now = s.now + T ∧
      completionsOf k (t.events.drop s.events.length) = [(g, .timeout)])

/-- TICK*n is n TICK inputs taken one after another (30_encoding.md R317; 44_correlator.md R806).
From a state whose next inputs are n TICK inputs, n steps of the machine lead where exec of TICK*n leads from the state without them. TICK*n, which is one instruction by the model's choice (assumption 12), completes in every state, with now advanced by n, 32 bits. -/
def Obligations.TickStarIsThatManyTickInputs : Prop :=
  (∀ (n : Nat) (s : State) (rest : List Input), s.inputs = List.replicate n tickInput ++ rest →
    Host.Core.run Sys2Proof.core n s = exec (.ticks n) { s with inputs := rest }) ∧
  (∀ (n : Nat) (s : State), ∃ t, exec (.ticks n) s = .next t ∧ t.now = s.now + BitVec.ofNat 32 n)

/-- A resolving receive and the TICK that reaches the deadline: for every kind the step order decides the one outcome (44_correlator.md R808; 43_dispatch.md R711; 95_test_vectors.md V-C13, V-C14).
For every kind, every live wait whose deadline the next TICK reaches, and every RX (or received-frame row, one step by the model's choice, assumption 6) that brings a frame that is the kind's signal: the receive and then TICK give exactly one completion, SUCCESS with the signal's value and status; TICK and then the receive give exactly one, TIMEOUT, and the status is written all the same. A newer wait registered between receive and TICK is tested against its own deadline: it ends in TIMEOUT where that is one tick, and stays live otherwise. -/
def Obligations.FirstToOccurWins : Prop :=
  ∀ (s : State) (k : Kind) (d : Word) (g : Half) (i : Instr) (v : Byte) (snap : DeviceStatus),
    s.slot k = .sent d g → 0 ≤ (s.now + 1#32 - d).toInt → receivedOn i = some (kindChannel k) →
    ResolvedBy s (framesBrought s i) k v snap →
    ∃ received late ticked lateReceived, exec i s = .next received ∧ exec .tick received = .next late ∧
      exec .tick s = .next ticked ∧ exec i ticked = .next lateReceived ∧
      late.slot k = .idle ∧ completionsOf k (late.events.drop s.events.length) = [(g, .success v snap)] ∧
      lateReceived.slot k = .idle ∧ completionsOf k (lateReceived.events.drop s.events.length) = [(g, .timeout)] ∧
      lateReceived.status = received.status ∧
      ∀ (T : Word) (p : List Byte), T.toNat ≤ 0x7FFFFFFF → p.length ≤ 4092 →
        ∃ renewed after, exec (.issue k T p true) received = .next renewed ∧ exec .tick renewed = .next after ∧
          (T = 1#32 → after.slot k = .idle ∧
            completionsOf k (after.events.drop s.events.length) = [(g, .success v snap), (s.seq, .timeout)]) ∧
          (T ≠ 1#32 → after.slot k = .sent (s.now + (if T = 0#32 then 5000#32 else T)) s.seq ∧
            completionsOf k (after.events.drop s.events.length) = [(g, .success v snap)])

/-- The status record, results, events and the slot and status registers, field by field and code by code (10_state.md R107, R108, R110, R116, R117; 30_encoding.md R314; 60_exceptions.md R1003, R1008, R1009, R1012; 20_memory.md R203).
The status record is 12 bytes with the i16 fields little-endian at 0, 2, 4, 6, the wear code at 8, the mode code at 9 and zeros at 10 and 11; UNKNOWN_STATUS is FF FF FF FF FF FF FF FF 02 04 00 00; the codes are R107's and R108's. A result word, little-endian, holds its code in [7:0], 0 in [15:8] and the tag in [31:16]: that of a registered wait, else 0; SNAPSHOT's is followed by the 22 bytes of the record, FLAGS, NOW and SEQ. An event's header word holds TYPE in [3:0] (1 Completion, 2 StatusChanged, 3 TransportError), a completion's KIND in [5:4], CODE in [7:6], VALUE in [15:8], TAG in [31:16], a TransportError's CH in [4], zeros elsewhere; the record follows for SUCCESS and StatusChanged; a TxFrame has no header and is its bytes. VALUE is 0x00 and the snapshot absent but for SUCCESS. S3..S6: [0] SENT, [16:1] TAG, [48:17] DEADLINE, all 0 for Idle. S7: byte n of the record at bits 8n+7..8n, which is the model's reading (assumption 13). Events and results as data with these bytes are the model's choice (assumption 15). -/
def Obligations.RecordsAndResultWordsAreLaidOut : Prop :=
  (∀ w : Word, wordBytes w = [w.extractLsb' 0 8, w.extractLsb' 8 8, w.extractLsb' 16 8, w.extractLsb' 24 8]) ∧
  -- the status record (R117) and its codes (R107, R108)
  (∀ d : DeviceStatus, statusRecord d =
    [d.batteryLeft.setWidth 8, (d.batteryLeft >>> 8).setWidth 8, d.batteryRight.setWidth 8,
      (d.batteryRight >>> 8).setWidth 8, d.ambientLevel.setWidth 8, (d.ambientLevel >>> 8).setWidth 8,
      d.ancLevel.setWidth 8, (d.ancLevel >>> 8).setWidth 8, wearCode d.isWearing, ncModeCode d.noiseControlMode, 0#8, 0#8]) ∧
  statusRecord unknownStatus =
    [0xFF#8, 0xFF#8, 0xFF#8, 0xFF#8, 0xFF#8, 0xFF#8, 0xFF#8, 0xFF#8, 0x02#8, 0x04#8, 0x00#8, 0x00#8] ∧
  (wearCode .notWearing = 0#8 ∧ wearCode .wearing = 1#8 ∧ wearCode .unknown = 2#8) ∧
  (ncModeCode .off = 0#8 ∧ ncModeCode .anc = 1#8 ∧ ncModeCode .ambient = 2#8 ∧ ncModeCode .adaptive = 3#8 ∧
    ncModeCode .unknown = 4#8) ∧
  -- results (R314, R1003)
  (∀ a : Answer, (resultWord a).extractLsb' 0 8 = answerCode a ∧ (resultWord a).extractLsb' 8 8 = 0#8 ∧
    (resultWord a).extractLsb' 16 16 = answerTag a) ∧
  (∀ (g : Half) (x : Snapshot), answerTag (.registered g) = g ∧ answerTag .ok = 0#16 ∧ answerTag (.snapshot x) = 0#16 ∧
    answerTag .encodeError = 0#16 ∧ answerTag .writeError = 0#16 ∧ answerTag .notConnected = 0#16 ∧
    answerTag .illegal = 0#16 ∧ answerTag .stateError = 0#16 ∧
    answerCode .ok = 0x00#8 ∧ answerCode (.registered g) = 0x00#8 ∧ answerCode (.snapshot x) = 0x00#8 ∧
    answerCode .encodeError = 0x01#8 ∧ answerCode .writeError = 0x02#8 ∧ answerCode .notConnected = 0x03#8 ∧
    answerCode .illegal = 0x04#8 ∧ answerCode .stateError = 0x05#8) ∧
  (∀ a : Answer, (∀ x, a ≠ .snapshot x) → answerBytes a = wordBytes (resultWord a)) ∧
  (∀ x : Snapshot, answerBytes (.snapshot x) = wordBytes (resultWord (.snapshot x)) ++ snapshotBytes x ∧
    snapshotBytes x = statusRecord x.status ++ wordBytes x.flags ++ wordBytes x.now ++
      [x.seq.extractLsb' 0 8, x.seq.extractLsb' 8 8] ∧
    (snapshotBytes x).length = 22) ∧
  -- events (R1008, R1009, R1012)
  (∀ (v : Byte) (d : DeviceStatus), endingCode (.success v d) = 0#2 ∧ endingCode .timeout = 1#2 ∧
    endingCode .superseded = 2#2 ∧ endingCode .cancelled = 3#2 ∧
    endingValue (.success v d) = v ∧ endingValue .timeout = 0x00#8 ∧ endingValue .superseded = 0x00#8 ∧
    endingValue .cancelled = 0x00#8 ∧
    endingSnap (.success v d) = some d ∧ endingSnap .timeout = none ∧ endingSnap .superseded = none ∧
    endingSnap .cancelled = none) ∧
  (kindBits .noise = 0#2 ∧ kindBits .ancLevel = 1#2 ∧ kindBits .ambientLevel = 2#2 ∧ kindBits .testConn = 3#2) ∧
  (∀ (k : Kind) (g : Half) (e : Ending), ∃ w, eventHeader (.completion k g e) = some w ∧ w.extractLsb' 0 4 = 1#4 ∧
    w.extractLsb' 4 2 = kindBits k ∧ w.extractLsb' 6 2 = endingCode e ∧ w.extractLsb' 8 8 = endingValue e ∧
    w.extractLsb' 16 16 = g ∧
    eventBytes (.completion k g e) =
      wordBytes w ++ (match endingSnap e with | some d => statusRecord d | none => [])) ∧
  (∀ d : DeviceStatus, eventHeader (.statusChanged d) = some 2#32 ∧
    eventBytes (.statusChanged d) = wordBytes 2#32 ++ statusRecord d) ∧
  (eventHeader (.transportError .data) = some 0x00000003#32 ∧
    eventBytes (.transportError .data) = wordBytes 0x00000003#32 ∧
    eventHeader (.transportError .cmd) = some 0x00000013#32 ∧
    eventBytes (.transportError .cmd) = wordBytes 0x00000013#32) ∧
  (∀ (ch : Channel) (bytes : List Byte), eventHeader (.txFrame ch bytes) = none ∧
    eventBytes (.txFrame ch bytes) = bytes) ∧
  -- the registers S3..S6 and S7 (R116)
  slotRegister .idle = 0#49 ∧
  (∀ (d : Word) (g : Half), (slotRegister (.sent d g)).extractLsb' 0 1 = 1#1 ∧
    (slotRegister (.sent d g)).extractLsb' 1 16 = g ∧ (slotRegister (.sent d g)).extractLsb' 17 32 = d) ∧
  (∀ (d : DeviceStatus) (n : Nat), n < 12 →
    (statusRecord d)[n]? = some ((statusRegister d).extractLsb' (8 * n) 8))
end

