-- ==== Sys2Proof/Laws/Encoding.lean ====
section
/-! SUPPORT. Bytes, words and header fields: putting together and taking apart are inverse. -/

namespace Sys2Proof

/-! ## Bit fields -/

/-- The lower part of two joined bit vectors. -/
theorem extract_append_low {n m : Nat} (x : BitVec n) (y : BitVec m) : (x ++ y).extractLsb' 0 m = y := by
  apply BitVec.eq_of_getLsbD_eq
  intro i hi
  simp [BitVec.getLsbD_append, hi]

/-- The upper part of two joined bit vectors. -/
theorem extract_append_high {n m : Nat} (x : BitVec n) (y : BitVec m) : (x ++ y).extractLsb' m n = x := by
  apply BitVec.eq_of_getLsbD_eq
  intro i hi
  simp [BitVec.getLsbD_append, hi]

/-- A field of the upper part of two joined bit vectors. -/
theorem extract_append_of_le {n m : Nat} (x : BitVec n) (y : BitVec m) {start len : Nat} (h : m ≤ start) :
    (x ++ y).extractLsb' start len = x.extractLsb' (start - m) len := by
  apply BitVec.eq_of_getLsbD_eq
  intro i hi
  have : ¬ start + i < m := by omega
  have e : start + i - m = start - m + i := by omega
  simp [BitVec.getLsbD_append, hi, this, e]

/-- A bit vector is two adjacent fields of it joined. -/
theorem extract_append_extract {n : Nat} (x : BitVec n) (start a b : Nat) :
    x.extractLsb' (start + a) b ++ x.extractLsb' start a = x.extractLsb' start (b + a) := by
  apply BitVec.eq_of_getLsbD_eq
  intro i hi
  rw [BitVec.getLsbD_append]
  split
  · simp [*]
  · have : i - a < b := by omega
    have e : start + a + (i - a) = start + i := by omega
    simp [this, hi, e]

/-- The field that is the whole of a bit vector. -/
theorem extract_all {n : Nat} (x : BitVec n) : x.extractLsb' 0 n = x := by
  apply BitVec.eq_of_getLsbD_eq
  intro i hi
  simp [hi]

/-! ## Bytes and words -/

theorem halfOf_halfBytes (h : Half) : halfOf (h.extractLsb' 0 8) (h.extractLsb' 8 8) = h :=
  (extract_append_extract h 0 8 8).trans (extract_all h)

theorem halfBytes_halfOf (lo hi : Byte) : halfBytes (halfOf lo hi) = [lo, hi] := by
  have h0 : (halfOf lo hi).extractLsb' 0 8 = lo := extract_append_low hi lo
  have h1 : (halfOf lo hi).extractLsb' 8 8 = hi := extract_append_high hi lo
  rw [halfBytes, h0, h1]

theorem wordOf_wordBytes (w : Word) :
    wordOf (w.extractLsb' 0 8) (w.extractLsb' 8 8) (w.extractLsb' 16 8) (w.extractLsb' 24 8) = w := by
  have h1 := extract_append_extract w 16 8 8
  have h2 := extract_append_extract w 8 8 16
  have h3 := extract_append_extract w 0 8 24
  simp only [wordOf]
  rw [h1, h2, h3]
  exact extract_all w

theorem wordBytes_wordOf (b0 b1 b2 b3 : Byte) : wordBytes (wordOf b0 b1 b2 b3) = [b0, b1, b2, b3] := by
  have e0 : (wordOf b0 b1 b2 b3).extractLsb' 0 8 = b0 := extract_append_low _ _
  have e1 : (wordOf b0 b1 b2 b3).extractLsb' 8 8 = b1 :=
    (extract_append_of_le _ _ (by omega)).trans (extract_append_low _ _)
  have e2 : (wordOf b0 b1 b2 b3).extractLsb' 16 8 = b2 :=
    (extract_append_of_le _ _ (by omega)).trans ((extract_append_of_le _ _ (by omega)).trans (extract_append_low _ _))
  have e3 : (wordOf b0 b1 b2 b3).extractLsb' 24 8 = b3 :=
    (extract_append_of_le _ _ (by omega)).trans ((extract_append_of_le _ _ (by omega)).trans (extract_append_high _ _))
  rw [wordBytes, e0, e1, e2, e3]

/-- Reading the header word of an encoded input. -/
theorem decodeWords_wordBytes (read : Word → List Byte → Decoded) (w : Word) (tail : List Byte) :
    decodeWords read (wordBytes w ++ tail) = read w tail := by
  simp only [decodeWords, wordBytes, List.cons_append, List.nil_append, wordOf_wordBytes]

/-! ## Header words -/

theorem headerOf_headerWord (h : Header) : headerOf (headerWord h) = h := by
  cases h with
  | mk op ch kind rsv msgId plen =>
    simp only [headerOf, Header.mk.injEq]
    refine ⟨extract_append_low _ _, ?_, ?_, ?_, ?_, ?_⟩
    · exact (extract_append_of_le _ _ (by omega)).trans (extract_append_low _ _)
    · exact (extract_append_of_le _ _ (by omega)).trans ((extract_append_of_le _ _ (by omega)).trans (extract_append_low _ _))
    · exact (extract_append_of_le _ _ (by omega)).trans ((extract_append_of_le _ _ (by omega)).trans
        ((extract_append_of_le _ _ (by omega)).trans (extract_append_low _ _)))
    · exact (extract_append_of_le _ _ (by omega)).trans ((extract_append_of_le _ _ (by omega)).trans
        ((extract_append_of_le _ _ (by omega)).trans ((extract_append_of_le _ _ (by omega)).trans (extract_append_low _ _))))
    · exact (extract_append_of_le _ _ (by omega)).trans ((extract_append_of_le _ _ (by omega)).trans
        ((extract_append_of_le _ _ (by omega)).trans ((extract_append_of_le _ _ (by omega)).trans (extract_append_high _ _))))

theorem headerWord_headerOf (w : Word) : headerWord (headerOf w) = w := by
  have h1 := extract_append_extract w 8 8 16
  have h2 := extract_append_extract w 7 1 24
  have h3 := extract_append_extract w 5 2 25
  have h4 := extract_append_extract w 4 1 27
  have h5 := extract_append_extract w 0 4 28
  simp only [headerWord, headerOf]
  rw [h1, h2, h3, h4, h5]
  exact extract_all w

theorem headerOf_opWord_op (r : BitVec 28) (op : BitVec 4) : (headerOf (opWord r op)).op = op := extract_append_low _ _

theorem restOf_opWord (r : BitVec 28) (op : BitVec 4) : restOf (opWord r op) = r := extract_append_high _ _

theorem opWord_restOf (w : Word) : opWord (restOf w) (headerOf w).op = w :=
  (extract_append_extract w 0 4 28).trans (extract_all w)

@[simp] theorem channelOf_channelBit (ch : Channel) : channelOf (channelBit ch) = ch := by cases ch <;> rfl

@[simp] theorem kindOf_kindBits (k : Kind) : kindOf (kindBits k) = k := by cases k <;> rfl

theorem channelBit_channelOf : ∀ b : BitVec 1, channelBit (channelOf b) = b := by decide

theorem kindBits_kindOf : ∀ b : BitVec 2, kindBits (kindOf b) = b := by decide

/-! ## What the decoder reads -/

theorem rxInstr_expand (ch : Channel) (id : Byte) (p : List Byte) : (rxInstr ch id p).expand = [rxInstr ch id p] := by
  cases ch <;> simp only [rxInstr] <;> (repeat' split) <;> rfl

theorem rxInstr_wf {ch : Channel} {id : Byte} {p : List Byte} (h : p.length ≤ pMax) : (rxInstr ch id p).wf = true := by
  cases ch <;> simp only [rxInstr] <;> (repeat' split) <;> simp_all [Instr.wf, listed]

/-- A well-formed instruction that is its own expansion. -/
def IsCore (i : Instr) : Prop := i.wf = true ∧ i.expand = [i]

theorem alone_core {tail : List Byte} {i j : Instr} (hi : IsCore i) (h : alone tail i = .instr j) : IsCore j := by
  unfold alone at h
  split at h <;> simp_all

theorem reservedOp_core {tail : List Byte} {i j : Instr} (hi : IsCore i) (h : reservedOp tail i = .instr j) : IsCore j := by
  unfold reservedOp at h
  split at h <;> simp_all

theorem decodeHost_core {w : Word} {tail : List Byte} {wr : Bool} {i : Instr} (h : decodeHost w tail wr = .instr i) : IsCore i := by
  simp only [decodeHost] at h
  have hp : (headerOf w).plen.toNat < 65536 := (headerOf w).plen.isLt
  split at h
  all_goals first
    | exact reservedOp_core ⟨rfl, rfl⟩ h
    | skip
  all_goals repeat' split at h
  all_goals first
    | exact alone_core ⟨rfl, rfl⟩ h
    | (cases h; done)
    | (cases h; exact ⟨decide_eq_true (by unfold plenMax; omega), rfl⟩)

theorem decodeTransport_core {w : Word} {tail : List Byte} {i : Instr} (h : decodeTransport w tail = .instr i) : IsCore i := by
  simp only [decodeTransport] at h
  have hp : (headerOf w).plen.toNat < 65536 := (headerOf w).plen.isLt
  repeat' split at h
  all_goals first
    | exact alone_core ⟨rfl, rfl⟩ h
    | (cases h; done)
    | (cases h; exact ⟨decide_eq_true (by unfold plenMax; omega), rfl⟩)

theorem decodeTimer_core {w : Word} {tail : List Byte} {i : Instr} (h : decodeTimer w tail = .instr i) : IsCore i := by
  unfold decodeTimer at h
  split at h
  · exact alone_core ⟨rfl, rfl⟩ h
  · cases h

theorem decodeTxIssue_core {tail : List Byte} {mk : Word → List Byte → Instr} {i : Instr}
    (hm : ∀ t p, p.length ≤ plenMax → IsCore (mk t p)) (h : decodeTxIssue tail mk = .instr i) : IsCore i := by
  unfold decodeTxIssue at h
  repeat' split at h
  all_goals first
    | (cases h; done)
    | (cases h; exact hm _ _ ‹_›)

theorem decodeTxFrame_core {ch : Channel} {id : Byte} {tail : List Byte} {wr : Bool} {i : Instr}
    (h : decodeTxFrame ch id tail wr = .instr i) : IsCore i := by
  unfold decodeTxFrame at h
  repeat' split at h
  all_goals first
    | exact decodeTxIssue_core (fun t p hp => ⟨by simpa [Instr.wf] using hp, rfl⟩) h
    | (cases h; done)
    | (cases h; exact ⟨by simpa [Instr.wf] using ‹_›, rfl⟩)

/-- What an input decodes to is well-formed and is no pseudo-instruction. -/
theorem decode_core {inp : Input} {i : Instr} (h : decode inp = .instr i) : IsCore i := by
  unfold decode decodeWords decodeFrame at h
  repeat' split at h
  all_goals first
    | exact decodeHost_core h
    | exact decodeTransport_core h
    | exact decodeTimer_core h
    | exact decodeTxFrame_core h
    | cases h
    | skip
  unfold decodeRxFrame at h
  split at h
  · cases h
    exact ⟨rxInstr_wf ‹_›, rxInstr_expand _ _ _⟩
  · cases h

end Sys2Proof
end

