-- ==== Sys2Proof/Laws/Codec.lean ====
section
/-! SUPPORT. The length field, and the scan one candidate at a time. -/

namespace Sys2Proof.Machine

/-! ## The length field -/

theorem lengthOf_eq (lo hi : Byte) : lengthOf lo hi = lo.toNat + 256 * (hi.toNat % 16) := by
  simp only [lengthOf, BitVec.toNat_append, BitVec.extractLsb'_toNat]
  rw [Nat.shiftLeft_eq, ← Nat.shiftLeft_eq, ← Nat.shiftLeft_add_eq_or_of_lt lo.isLt, Nat.shiftLeft_eq]
  simp
  omega

theorem lengthOf_le (lo hi : Byte) : lengthOf lo hi ≤ 4095 := by
  have := lo.isLt
  rw [lengthOf_eq]
  omega

@[simp] theorem lengthBytes_length (n : Nat) : (lengthBytes n).length = 2 := rfl

theorem encodeFrame_length (t : CrcTable) (id : Byte) (p : List Byte) : (encodeFrame t id p).length = p.length + 7 := by
  simp [encodeFrame, halfBytes]
  omega

/-- The length field of an encoded frame reads back. -/
theorem lengthOf_lengthBytes {n : Nat} (h : n ≤ lMax) : ∃ lo hi, lengthBytes n = [lo, hi] ∧ lengthOf lo hi = n := by
  refine ⟨_, _, rfl, ?_⟩
  unfold lMax at h
  rw [lengthOf_eq]
  simp only [BitVec.extractLsb'_toNat, BitVec.toNat_append, BitVec.toNat_ofNat]
  simp [Nat.shiftRight_eq_div_pow]
  omega

/-! ## One candidate -/

/-- Bytes that come later do not change a mismatch. -/
theorem examine_append_of_mismatch {t : CrcTable} {b : List Byte} (h : examine t b = .mismatch) (c : List Byte) :
    examine t (b ++ c) = .mismatch := by
  unfold examine at h ⊢
  match b with
  | [] | [_] | [_, _] => simp at h
  | a :: lo :: hi :: body =>
    simp only [List.cons_append] at h ⊢
    split at h
    · simp [*]
    · next h3 =>
      simp only [h3, if_false]
      split at h
      · cases h
      · next h4 =>
        have hf : ¬ (a :: lo :: hi :: (body ++ c)).length < lengthOf lo hi + 4 := by simp at h4 ⊢; omega
        simp only [hf, if_false]
        match body with
        | [] => simp at h
        | id :: rest =>
          simp only [List.cons_append] at h ⊢
          have hl : lengthOf lo hi - 3 ≤ rest.length := by simp at h4; omega
          rw [List.take_append_of_le_length hl, List.drop_append_of_le_length hl]
          generalize rest.drop (lengthOf lo hi - 3) = d at h ⊢
          match d with
          | [] | [_] | [_, _] => simp at h
          | x :: y :: z :: r => simpa using h

/-- Bytes that come later do not change an accepted frame, whose span lies within the bytes there were. -/
theorem examine_append_of_accept {t : CrcTable} {b : List Byte} {f : Frame} {n : Nat} (h : examine t b = .accept f n)
    (c : List Byte) : examine t (b ++ c) = .accept f n ∧ n ≤ b.length ∧ 1 ≤ n := by
  unfold examine at h ⊢
  match b with
  | [] | [_] | [_, _] => simp at h
  | a :: lo :: hi :: body =>
    simp only [List.cons_append] at h ⊢
    split at h
    · simp at h
    · next h3 =>
      simp only [h3, if_false]
      split at h
      · cases h
      · next h4 =>
        have hf : ¬ (a :: lo :: hi :: (body ++ c)).length < lengthOf lo hi + 4 := by simp at h4 ⊢; omega
        simp only [hf, if_false]
        match body with
        | [] => simp at h
        | id :: rest =>
          simp only [List.cons_append] at h ⊢
          have hl : lengthOf lo hi - 3 ≤ rest.length := by simp at h4; omega
          rw [List.take_append_of_le_length hl, List.drop_append_of_le_length hl]
          generalize rest.drop (lengthOf lo hi - 3) = d at h ⊢
          match d with
          | [] | [_] | [_, _] => simp at h
          | x :: y :: z :: r =>
            simp only [List.cons_append] at h ⊢
            split at h
            · cases h
            · split at h
              · cases h
              · cases h
                simp_all

/-! ## The scan -/

@[simp] theorem scan_nil (t : CrcTable) : scan t [] = ([], []) := rfl

/-- Bytes still to pass over are passed over. -/
theorem scanFrom_eq_drop (t : CrcTable) (n : Nat) (b : List Byte) : scanFrom t n b = scan t (b.drop n) := by
  induction b generalizing n with
  | nil => cases n <;> simp [scanFrom]
  | cons x rest ih =>
    cases n with
    | zero => rfl
    | succ n => simpa [scanFrom] using ih n

/-- A byte that is no start marker is skipped (41_frame_codec.md rule R508). -/
theorem scan_skip {t : CrcTable} {x : Byte} (h : x ≠ som) (rest : List Byte) : scan t (x :: rest) = scan t rest := by
  simp [scan, scanFrom, h]

/-- A candidate that is not all there stops the scan (rule R506). -/
theorem scan_incomplete {t : CrcTable} {rest : List Byte} (h : examine t (som :: rest) = .incomplete) :
    scan t (som :: rest) = ([], som :: rest) := by
  simp [scan, scanFrom, h]

/-- An abandoned candidate is passed over by one byte (rule R507). -/
theorem scan_mismatch {t : CrcTable} {rest : List Byte} (h : examine t (som :: rest) = .mismatch) :
    scan t (som :: rest) = scan t rest := by
  simp [scan, scanFrom, h]

/-- An accepted candidate gives its frame, and the scan goes on after its span (rule R509). -/
theorem scan_accept {t : CrcTable} {rest : List Byte} {f : Frame} {span : Nat}
    (h : examine t (som :: rest) = .accept f span) :
    scan t (som :: rest) = (f :: (scan t (rest.drop (span - 1))).1, (scan t (rest.drop (span - 1))).2) := by
  rw [← scanFrom_eq_drop]
  simp [scan, scanFrom, h]

end Sys2Proof.Machine
end

