-- ==== Sys2Proof/Laws/State.lean ====
section
/-! SUPPORT. What each update of the state does to each of its elements, so that no proof unfolds a record update. -/

namespace Sys2Proof.Machine

/-- Two states with the same elements are the same state. -/
theorem State.eq_of_elements {s t : State} (config : s.config = t.config) (connected : s.connected = t.connected)
    (rxbuf : ∀ ch, s.rxbuf ch = t.rxbuf ch) (status : s.status = t.status) (slot : ∀ k, s.slot k = t.slot k)
    (now : s.now = t.now) (seq : s.seq = t.seq) (inputs : s.inputs = t.inputs) (events : s.events = t.events)
    (answers : s.answers = t.answers) : s = t := by
  have hData := rxbuf .data
  have hCmd := rxbuf .cmd
  have hNoise := slot .noise
  have hAnc := slot .ancLevel
  have hAmbient := slot .ambientLevel
  have hTest := slot .testConn
  cases s
  cases t
  simp_all [State.rxbuf, State.slot]

@[simp] theorem State.setRxbuf_config (s : State) (ch : Channel) (b : List Byte) : (s.setRxbuf ch b).config = s.config := by cases ch <;> rfl

@[simp] theorem State.setRxbuf_connected (s : State) (ch : Channel) (b : List Byte) : (s.setRxbuf ch b).connected = s.connected := by cases ch <;> rfl

@[simp] theorem State.setRxbuf_rxbuf_self (s : State) (ch : Channel) (b : List Byte) : (s.setRxbuf ch b).rxbuf ch = b := by
  cases ch <;> rfl

theorem State.setRxbuf_rxbuf (s : State) (ch : Channel) (b : List Byte) (c : Channel) :
    (s.setRxbuf ch b).rxbuf c = if c = ch then b else s.rxbuf c := by
  cases ch <;> cases c <;> rfl

@[simp] theorem State.setRxbuf_rxbuf_ne (s : State) (ch : Channel) (b : List Byte) {c : Channel} (h : c ≠ ch) :
    (s.setRxbuf ch b).rxbuf c = s.rxbuf c := by
  simp [State.setRxbuf_rxbuf, h]

@[simp] theorem State.setRxbuf_status (s : State) (ch : Channel) (b : List Byte) : (s.setRxbuf ch b).status = s.status := by cases ch <;> rfl

@[simp] theorem State.setRxbuf_slot (s : State) (ch : Channel) (b : List Byte) (j : Kind) : (s.setRxbuf ch b).slot j = s.slot j := by cases ch <;> cases j <;> rfl

@[simp] theorem State.setRxbuf_now (s : State) (ch : Channel) (b : List Byte) : (s.setRxbuf ch b).now = s.now := by cases ch <;> rfl

@[simp] theorem State.setRxbuf_seq (s : State) (ch : Channel) (b : List Byte) : (s.setRxbuf ch b).seq = s.seq := by cases ch <;> rfl

@[simp] theorem State.setRxbuf_inputs (s : State) (ch : Channel) (b : List Byte) : (s.setRxbuf ch b).inputs = s.inputs := by cases ch <;> rfl

@[simp] theorem State.setRxbuf_events (s : State) (ch : Channel) (b : List Byte) : (s.setRxbuf ch b).events = s.events := by cases ch <;> rfl

@[simp] theorem State.setRxbuf_answers (s : State) (ch : Channel) (b : List Byte) : (s.setRxbuf ch b).answers = s.answers := by cases ch <;> rfl

@[simp] theorem State.setSlot_config (s : State) (k : Kind) (x : Slot) : (s.setSlot k x).config = s.config := by cases k <;> rfl

@[simp] theorem State.setSlot_connected (s : State) (k : Kind) (x : Slot) : (s.setSlot k x).connected = s.connected := by cases k <;> rfl

@[simp] theorem State.setSlot_rxbuf (s : State) (k : Kind) (x : Slot) (c : Channel) : (s.setSlot k x).rxbuf c = s.rxbuf c := by cases k <;> cases c <;> rfl

@[simp] theorem State.setSlot_status (s : State) (k : Kind) (x : Slot) : (s.setSlot k x).status = s.status := by cases k <;> rfl

@[simp] theorem State.setSlot_slot_self (s : State) (k : Kind) (x : Slot) : (s.setSlot k x).slot k = x := by
  cases k <;> rfl

theorem State.setSlot_slot (s : State) (k : Kind) (x : Slot) (j : Kind) :
    (s.setSlot k x).slot j = if j = k then x else s.slot j := by
  cases k <;> cases j <;> rfl

@[simp] theorem State.setSlot_slot_ne (s : State) (k : Kind) (x : Slot) {j : Kind} (h : j ≠ k) :
    (s.setSlot k x).slot j = s.slot j := by
  simp [State.setSlot_slot, h]

@[simp] theorem State.setSlot_now (s : State) (k : Kind) (x : Slot) : (s.setSlot k x).now = s.now := by cases k <;> rfl

@[simp] theorem State.setSlot_seq (s : State) (k : Kind) (x : Slot) : (s.setSlot k x).seq = s.seq := by cases k <;> rfl

@[simp] theorem State.setSlot_inputs (s : State) (k : Kind) (x : Slot) : (s.setSlot k x).inputs = s.inputs := by cases k <;> rfl

@[simp] theorem State.setSlot_events (s : State) (k : Kind) (x : Slot) : (s.setSlot k x).events = s.events := by cases k <;> rfl

@[simp] theorem State.setSlot_answers (s : State) (k : Kind) (x : Slot) : (s.setSlot k x).answers = s.answers := by cases k <;> rfl

@[simp] theorem State.setConnected_config (s : State) (b : Bool) : (s.setConnected b).config = s.config := rfl

@[simp] theorem State.setConnected_connected (s : State) (b : Bool) : (s.setConnected b).connected = b := rfl

@[simp] theorem State.setConnected_rxbuf (s : State) (b : Bool) (c : Channel) : (s.setConnected b).rxbuf c = s.rxbuf c := by cases c <;> rfl

@[simp] theorem State.setConnected_status (s : State) (b : Bool) : (s.setConnected b).status = s.status := rfl

@[simp] theorem State.setConnected_slot (s : State) (b : Bool) (j : Kind) : (s.setConnected b).slot j = s.slot j := by cases j <;> rfl

@[simp] theorem State.setConnected_now (s : State) (b : Bool) : (s.setConnected b).now = s.now := rfl

@[simp] theorem State.setConnected_seq (s : State) (b : Bool) : (s.setConnected b).seq = s.seq := rfl

@[simp] theorem State.setConnected_inputs (s : State) (b : Bool) : (s.setConnected b).inputs = s.inputs := rfl

@[simp] theorem State.setConnected_events (s : State) (b : Bool) : (s.setConnected b).events = s.events := rfl

@[simp] theorem State.setConnected_answers (s : State) (b : Bool) : (s.setConnected b).answers = s.answers := rfl

@[simp] theorem State.setStatus_config (s : State) (d : DeviceStatus) : (s.setStatus d).config = s.config := rfl

@[simp] theorem State.setStatus_connected (s : State) (d : DeviceStatus) : (s.setStatus d).connected = s.connected := rfl

@[simp] theorem State.setStatus_rxbuf (s : State) (d : DeviceStatus) (c : Channel) : (s.setStatus d).rxbuf c = s.rxbuf c := by cases c <;> rfl

@[simp] theorem State.setStatus_status (s : State) (d : DeviceStatus) : (s.setStatus d).status = d := rfl

@[simp] theorem State.setStatus_slot (s : State) (d : DeviceStatus) (j : Kind) : (s.setStatus d).slot j = s.slot j := by cases j <;> rfl

@[simp] theorem State.setStatus_now (s : State) (d : DeviceStatus) : (s.setStatus d).now = s.now := rfl

@[simp] theorem State.setStatus_seq (s : State) (d : DeviceStatus) : (s.setStatus d).seq = s.seq := rfl

@[simp] theorem State.setStatus_inputs (s : State) (d : DeviceStatus) : (s.setStatus d).inputs = s.inputs := rfl

@[simp] theorem State.setStatus_events (s : State) (d : DeviceStatus) : (s.setStatus d).events = s.events := rfl

@[simp] theorem State.setStatus_answers (s : State) (d : DeviceStatus) : (s.setStatus d).answers = s.answers := rfl

@[simp] theorem State.setNow_config (s : State) (n : Word) : (s.setNow n).config = s.config := rfl

@[simp] theorem State.setNow_connected (s : State) (n : Word) : (s.setNow n).connected = s.connected := rfl

@[simp] theorem State.setNow_rxbuf (s : State) (n : Word) (c : Channel) : (s.setNow n).rxbuf c = s.rxbuf c := by cases c <;> rfl

@[simp] theorem State.setNow_status (s : State) (n : Word) : (s.setNow n).status = s.status := rfl

@[simp] theorem State.setNow_slot (s : State) (n : Word) (j : Kind) : (s.setNow n).slot j = s.slot j := by cases j <;> rfl

@[simp] theorem State.setNow_now (s : State) (n : Word) : (s.setNow n).now = n := rfl

@[simp] theorem State.setNow_seq (s : State) (n : Word) : (s.setNow n).seq = s.seq := rfl

@[simp] theorem State.setNow_inputs (s : State) (n : Word) : (s.setNow n).inputs = s.inputs := rfl

@[simp] theorem State.setNow_events (s : State) (n : Word) : (s.setNow n).events = s.events := rfl

@[simp] theorem State.setNow_answers (s : State) (n : Word) : (s.setNow n).answers = s.answers := rfl

@[simp] theorem State.setSeq_config (s : State) (n : Half) : (s.setSeq n).config = s.config := rfl

@[simp] theorem State.setSeq_connected (s : State) (n : Half) : (s.setSeq n).connected = s.connected := rfl

@[simp] theorem State.setSeq_rxbuf (s : State) (n : Half) (c : Channel) : (s.setSeq n).rxbuf c = s.rxbuf c := by cases c <;> rfl

@[simp] theorem State.setSeq_status (s : State) (n : Half) : (s.setSeq n).status = s.status := rfl

@[simp] theorem State.setSeq_slot (s : State) (n : Half) (j : Kind) : (s.setSeq n).slot j = s.slot j := by cases j <;> rfl

@[simp] theorem State.setSeq_now (s : State) (n : Half) : (s.setSeq n).now = s.now := rfl

@[simp] theorem State.setSeq_seq (s : State) (n : Half) : (s.setSeq n).seq = n := rfl

@[simp] theorem State.setSeq_inputs (s : State) (n : Half) : (s.setSeq n).inputs = s.inputs := rfl

@[simp] theorem State.setSeq_events (s : State) (n : Half) : (s.setSeq n).events = s.events := rfl

@[simp] theorem State.setSeq_answers (s : State) (n : Half) : (s.setSeq n).answers = s.answers := rfl

@[simp] theorem State.setInputs_config (s : State) (l : List Input) : (s.setInputs l).config = s.config := rfl

@[simp] theorem State.setInputs_connected (s : State) (l : List Input) : (s.setInputs l).connected = s.connected := rfl

@[simp] theorem State.setInputs_rxbuf (s : State) (l : List Input) (c : Channel) : (s.setInputs l).rxbuf c = s.rxbuf c := by cases c <;> rfl

@[simp] theorem State.setInputs_status (s : State) (l : List Input) : (s.setInputs l).status = s.status := rfl

@[simp] theorem State.setInputs_slot (s : State) (l : List Input) (j : Kind) : (s.setInputs l).slot j = s.slot j := by cases j <;> rfl

@[simp] theorem State.setInputs_now (s : State) (l : List Input) : (s.setInputs l).now = s.now := rfl

@[simp] theorem State.setInputs_seq (s : State) (l : List Input) : (s.setInputs l).seq = s.seq := rfl

@[simp] theorem State.setInputs_inputs (s : State) (l : List Input) : (s.setInputs l).inputs = l := rfl

@[simp] theorem State.setInputs_events (s : State) (l : List Input) : (s.setInputs l).events = s.events := rfl

@[simp] theorem State.setInputs_answers (s : State) (l : List Input) : (s.setInputs l).answers = s.answers := rfl

@[simp] theorem State.emit_config (s : State) (e : Event) : (s.emit e).config = s.config := rfl

@[simp] theorem State.emit_connected (s : State) (e : Event) : (s.emit e).connected = s.connected := rfl

@[simp] theorem State.emit_rxbuf (s : State) (e : Event) (c : Channel) : (s.emit e).rxbuf c = s.rxbuf c := by cases c <;> rfl

@[simp] theorem State.emit_status (s : State) (e : Event) : (s.emit e).status = s.status := rfl

@[simp] theorem State.emit_slot (s : State) (e : Event) (j : Kind) : (s.emit e).slot j = s.slot j := by cases j <;> rfl

@[simp] theorem State.emit_now (s : State) (e : Event) : (s.emit e).now = s.now := rfl

@[simp] theorem State.emit_seq (s : State) (e : Event) : (s.emit e).seq = s.seq := rfl

@[simp] theorem State.emit_inputs (s : State) (e : Event) : (s.emit e).inputs = s.inputs := rfl

@[simp] theorem State.emit_events (s : State) (e : Event) : (s.emit e).events = s.events ++ [e] := rfl

@[simp] theorem State.emit_answers (s : State) (e : Event) : (s.emit e).answers = s.answers := rfl

@[simp] theorem State.answer_config (s : State) (a : Answer) : (s.answer a).config = s.config := rfl

@[simp] theorem State.answer_connected (s : State) (a : Answer) : (s.answer a).connected = s.connected := rfl

@[simp] theorem State.answer_rxbuf (s : State) (a : Answer) (c : Channel) : (s.answer a).rxbuf c = s.rxbuf c := by cases c <;> rfl

@[simp] theorem State.answer_status (s : State) (a : Answer) : (s.answer a).status = s.status := rfl

@[simp] theorem State.answer_slot (s : State) (a : Answer) (j : Kind) : (s.answer a).slot j = s.slot j := by cases j <;> rfl

@[simp] theorem State.answer_now (s : State) (a : Answer) : (s.answer a).now = s.now := rfl

@[simp] theorem State.answer_seq (s : State) (a : Answer) : (s.answer a).seq = s.seq := rfl

@[simp] theorem State.answer_inputs (s : State) (a : Answer) : (s.answer a).inputs = s.inputs := rfl

@[simp] theorem State.answer_events (s : State) (a : Answer) : (s.answer a).events = s.events := rfl

@[simp] theorem State.answer_answers (s : State) (a : Answer) : (s.answer a).answers = s.answers ++ [a] := rfl

/-- Writing back the value an element has changes nothing. -/
@[simp] theorem State.setRxbuf_same (s : State) (ch : Channel) : s.setRxbuf ch (s.rxbuf ch) = s := by
  cases ch <;> rfl

@[simp] theorem State.setSlot_same (s : State) (k : Kind) : s.setSlot k (s.slot k) = s := by
  cases k <;> rfl

@[simp] theorem State.setRxbuf_setRxbuf (s : State) (ch : Channel) (a b : List Byte) :
    (s.setRxbuf ch a).setRxbuf ch b = s.setRxbuf ch b := by
  cases ch <;> rfl

@[simp] theorem State.setSlot_setSlot (s : State) (k : Kind) (x y : Slot) :
    (s.setSlot k x).setSlot k y = s.setSlot k y := by
  cases k <;> rfl

/-! ## The state after reset -/

@[simp] theorem State.reset_rxbuf (ch : Channel) : State.reset.rxbuf ch = [] := by cases ch <;> rfl

@[simp] theorem State.reset_slot (k : Kind) : State.reset.slot k = .idle := by cases k <;> rfl

end Sys2Proof.Machine
end

