-- ==== Sys2Proof/Laws/Waits.lean ====
section
/-! SUPPORT. What the operations on waits do: `finishWait`, `resolve`, `expireWait`, the walk over the kinds, and the timer. -/

namespace Sys2Proof.Machine

/-! ## finishWait -/

theorem finishWait_idle {k : Kind} {s : State} (e : Ending) (h : s.slot k = .idle) : finishWait k e s = s := by
  simp [finishWait, h]

theorem finishWait_sent {k : Kind} {s : State} {d : Word} {g : Half} (e : Ending) (h : s.slot k = .sent d g) :
    finishWait k e s = (s.emit (.completion k g e)).setSlot k .idle := by
  simp [finishWait, h]

/-- All `finishWait` can do: nothing, for an Idle slot; one completion and an Idle slot, for a live wait. -/
theorem finishWait_cases (k : Kind) (e : Ending) (s : State) :
    (s.slot k = .idle ∧ finishWait k e s = s) ∨
      ∃ d g, s.slot k = .sent d g ∧ finishWait k e s = (s.emit (.completion k g e)).setSlot k .idle := by
  cases h : s.slot k with
  | idle => exact .inl ⟨rfl, finishWait_idle e h⟩
  | sent d g => exact .inr ⟨d, g, rfl, finishWait_sent e h⟩

@[simp] theorem finishWait_config (k : Kind) (e : Ending) (s : State) : (finishWait k e s).config = s.config := by
  unfold finishWait; split <;> simp

@[simp] theorem finishWait_connected (k : Kind) (e : Ending) (s : State) :
    (finishWait k e s).connected = s.connected := by
  unfold finishWait; split <;> simp

@[simp] theorem finishWait_rxbuf (k : Kind) (e : Ending) (s : State) (ch : Channel) :
    (finishWait k e s).rxbuf ch = s.rxbuf ch := by
  unfold finishWait; split <;> simp

@[simp] theorem finishWait_status (k : Kind) (e : Ending) (s : State) : (finishWait k e s).status = s.status := by
  unfold finishWait; split <;> simp

@[simp] theorem finishWait_now (k : Kind) (e : Ending) (s : State) : (finishWait k e s).now = s.now := by
  unfold finishWait; split <;> simp

@[simp] theorem finishWait_seq (k : Kind) (e : Ending) (s : State) : (finishWait k e s).seq = s.seq := by
  unfold finishWait; split <;> simp

@[simp] theorem finishWait_inputs (k : Kind) (e : Ending) (s : State) : (finishWait k e s).inputs = s.inputs := by
  unfold finishWait; split <;> simp

@[simp] theorem finishWait_answers (k : Kind) (e : Ending) (s : State) : (finishWait k e s).answers = s.answers := by
  unfold finishWait; split <;> simp

@[simp] theorem finishWait_slot_self (k : Kind) (e : Ending) (s : State) : (finishWait k e s).slot k = .idle := by
  unfold finishWait; split <;> simp_all

@[simp] theorem finishWait_slot_ne {j k : Kind} (e : Ending) (s : State) (h : j ≠ k) :
    (finishWait k e s).slot j = s.slot j := by
  unfold finishWait; split <;> simp [h]

theorem finishWait_events (k : Kind) (e : Ending) (s : State) :
    (finishWait k e s).events =
      s.events ++ (match s.slot k with | .idle => [] | .sent _ g => [.completion k g e]) := by
  unfold finishWait; split <;> simp_all

/-! ## resolve -/

/-- `resolve` is the end of a wait in SUCCESS. -/
theorem resolve_eq (k : Kind) (v : Byte) (s : State) : resolve k v s = finishWait k (.success v s.status) s := rfl

/-! ## expireWait -/

/-- All `expireWait` can do: nothing, or the end of an overdue live wait in TIMEOUT. -/
theorem expireWait_cases (k : Kind) (s : State) :
    (expireWait k s = s ∧ ∀ d g, s.slot k = .sent d g → expired s.now d = false) ∨
      ∃ d g, s.slot k = .sent d g ∧ expired s.now d = true ∧ expireWait k s = finishWait k .timeout s := by
  cases h : s.slot k with
  | idle => exact .inl ⟨by simp [expireWait, h], by simp⟩
  | sent d g =>
    cases he : expired s.now d with
    | false => exact .inl ⟨by simp [expireWait, h, he], by simp [he]⟩
    | true => exact .inr ⟨d, g, rfl, he, by simp [expireWait, h, he]⟩

@[simp] theorem expireWait_config (k : Kind) (s : State) : (expireWait k s).config = s.config := by
  rcases expireWait_cases k s with ⟨h, _⟩ | ⟨_, _, _, _, h⟩ <;> simp [h]

@[simp] theorem expireWait_connected (k : Kind) (s : State) : (expireWait k s).connected = s.connected := by
  rcases expireWait_cases k s with ⟨h, _⟩ | ⟨_, _, _, _, h⟩ <;> simp [h]

@[simp] theorem expireWait_rxbuf (k : Kind) (s : State) (ch : Channel) : (expireWait k s).rxbuf ch = s.rxbuf ch := by
  rcases expireWait_cases k s with ⟨h, _⟩ | ⟨_, _, _, _, h⟩ <;> simp [h]

@[simp] theorem expireWait_status (k : Kind) (s : State) : (expireWait k s).status = s.status := by
  rcases expireWait_cases k s with ⟨h, _⟩ | ⟨_, _, _, _, h⟩ <;> simp [h]

@[simp] theorem expireWait_now (k : Kind) (s : State) : (expireWait k s).now = s.now := by
  rcases expireWait_cases k s with ⟨h, _⟩ | ⟨_, _, _, _, h⟩ <;> simp [h]

@[simp] theorem expireWait_seq (k : Kind) (s : State) : (expireWait k s).seq = s.seq := by
  rcases expireWait_cases k s with ⟨h, _⟩ | ⟨_, _, _, _, h⟩ <;> simp [h]

@[simp] theorem expireWait_inputs (k : Kind) (s : State) : (expireWait k s).inputs = s.inputs := by
  rcases expireWait_cases k s with ⟨h, _⟩ | ⟨_, _, _, _, h⟩ <;> simp [h]

@[simp] theorem expireWait_answers (k : Kind) (s : State) : (expireWait k s).answers = s.answers := by
  rcases expireWait_cases k s with ⟨h, _⟩ | ⟨_, _, _, _, h⟩ <;> simp [h]

@[simp] theorem expireWait_slot_ne {j k : Kind} (s : State) (h : j ≠ k) : (expireWait k s).slot j = s.slot j := by
  rcases expireWait_cases k s with ⟨e, _⟩ | ⟨_, _, _, _, e⟩ <;> simp [e, h]

/-! ## The walk over the kinds -/

/-- What one visit to each kind keeps, the walk keeps. -/
theorem forEachKind_keeps {P : State → Prop} {f : Kind → State → State} (h : ∀ k s, P s → P (f k s)) {s : State}
    (hs : P s) : P (forEachKind f s) :=
  h _ _ (h _ _ (h _ _ (h _ _ hs)))

/-- The walk is one visit to each kind in increasing order. -/
theorem forEachKind_eq (f : Kind → State → State) (s : State) :
    forEachKind f s = f .testConn (f .ambientLevel (f .ancLevel (f .noise s))) := rfl

/-! ## The timer -/

/-- TICK moves the timer, then visits each kind. -/
theorem tickTimer_eq (s : State) : tickTimer s = forEachKind expireWait (s.setNow (s.now + 1#32)) := rfl

@[simp] theorem tickTimer_now (s : State) : (tickTimer s).now = s.now + 1#32 := by
  simp [tickTimer_eq, forEachKind_eq]

@[simp] theorem tickTimer_config (s : State) : (tickTimer s).config = s.config := by simp [tickTimer_eq, forEachKind_eq]

@[simp] theorem tickTimer_connected (s : State) : (tickTimer s).connected = s.connected := by
  simp [tickTimer_eq, forEachKind_eq]

@[simp] theorem tickTimer_rxbuf (s : State) (ch : Channel) : (tickTimer s).rxbuf ch = s.rxbuf ch := by
  simp [tickTimer_eq, forEachKind_eq]

@[simp] theorem tickTimer_status (s : State) : (tickTimer s).status = s.status := by simp [tickTimer_eq, forEachKind_eq]

@[simp] theorem tickTimer_seq (s : State) : (tickTimer s).seq = s.seq := by simp [tickTimer_eq, forEachKind_eq]

@[simp] theorem tickTimer_inputs (s : State) : (tickTimer s).inputs = s.inputs := by simp [tickTimer_eq, forEachKind_eq]

@[simp] theorem tickTimer_answers (s : State) : (tickTimer s).answers = s.answers := by
  simp [tickTimer_eq, forEachKind_eq]

/-- What one tick keeps, n ticks keep. -/
theorem tickTimes_keeps {P : State → Prop} (h : ∀ s, P s → P (tickTimer s)) (n : Nat) :
    ∀ {s : State}, P s → P (tickTimes n s) := by
  induction n with
  | zero => exact fun hs => hs
  | succ n ih => exact fun hs => ih (h _ hs)

end Sys2Proof.Machine
end

