-- ==== Sys2Proof/Laws/Receive.lean ====
section
/-! SUPPORT. What the dispatcher and the receive step do. -/

namespace Sys2Proof.Machine

/-! ## updateStatus and resolveSignal -/

@[simp] theorem updateStatus_status (d : DeviceStatus) (s : State) : (updateStatus d s).status = d := by
  unfold updateStatus; split <;> simp_all

theorem updateStatus_events (d : DeviceStatus) (s : State) :
    (updateStatus d s).events = s.events ++ (if d = s.status then [] else [.statusChanged d]) := by
  unfold updateStatus; split <;> simp_all

@[simp] theorem updateStatus_config (d : DeviceStatus) (s : State) : (updateStatus d s).config = s.config := by
  unfold updateStatus; split <;> simp

@[simp] theorem updateStatus_connected (d : DeviceStatus) (s : State) :
    (updateStatus d s).connected = s.connected := by
  unfold updateStatus; split <;> simp

@[simp] theorem updateStatus_rxbuf (d : DeviceStatus) (s : State) (ch : Channel) :
    (updateStatus d s).rxbuf ch = s.rxbuf ch := by
  unfold updateStatus; split <;> simp

@[simp] theorem updateStatus_slot (d : DeviceStatus) (s : State) (k : Kind) :
    (updateStatus d s).slot k = s.slot k := by
  unfold updateStatus; split <;> simp

@[simp] theorem updateStatus_now (d : DeviceStatus) (s : State) : (updateStatus d s).now = s.now := by
  unfold updateStatus; split <;> simp

@[simp] theorem updateStatus_seq (d : DeviceStatus) (s : State) : (updateStatus d s).seq = s.seq := by
  unfold updateStatus; split <;> simp

@[simp] theorem updateStatus_inputs (d : DeviceStatus) (s : State) : (updateStatus d s).inputs = s.inputs := by
  unfold updateStatus; split <;> simp

@[simp] theorem updateStatus_answers (d : DeviceStatus) (s : State) : (updateStatus d s).answers = s.answers := by
  unfold updateStatus; split <;> simp

/-- All `resolveSignal` can do: nothing, or one `resolve`. -/
theorem resolveSignal_cases (signal : Option (Kind × Byte)) (s : State) :
    (signal = none ∧ resolveSignal signal s = s) ∨
      ∃ k v, signal = some (k, v) ∧ resolveSignal signal s = finishWait k (.success v s.status) s := by
  match signal with
  | none => exact .inl ⟨rfl, rfl⟩
  | some (k, v) => exact .inr ⟨k, v, rfl, rfl⟩

/-! ## dispatch -/

/-- All a dispatched frame can do: nothing, where it is ignored; or its status writes and then the signal it gives. -/
theorem dispatch_cases (ch : Channel) (s : State) (f : Frame) :
    (interpret s.config ch f s.status = none ∧ dispatch ch s f = s) ∨
      ∃ e, interpret s.config ch f s.status = some e ∧
        dispatch ch s f = resolveSignal e.signal (updateStatus e.status s) := by
  unfold dispatch
  split
  · next h => exact .inl ⟨h, rfl⟩
  · next e h => exact .inr ⟨e, h, rfl⟩

/-- A signal a frame on channel `ch` gives is of a kind whose channel is `ch` (10_state.md rule R110). -/
theorem interpret_kind {c : Config} {ch : Channel} {f : Frame} {old : DeviceStatus} {e : Effect} {k : Kind} {v : Byte}
    (h : interpret c ch f old = some e) (hs : e.signal = some (k, v)) : kindChannel k = ch := by
  cases ch with
  | data =>
    simp only [interpret] at h
    split at h
    · unfold status61 at h
      split at h
      · cases h
        simp only at hs
        split at hs
        · cases hs; rfl
        · cases hs
      · cases h
    · split at h
      · unfold ack42 at h
        split at h
        · split at h
          · cases h; cases hs; rfl
          · split at h
            · cases h; cases hs; rfl
            · split at h
              · cases h; cases hs; rfl
              · cases h
        · cases h
      · cases h
  | cmd =>
    simp only [interpret] at h
    split at h
    · unfold test01 at h
      split at h
      · cases h; cases hs; rfl
      · cases h
    · cases h

@[simp] theorem dispatch_config (ch : Channel) (s : State) (f : Frame) : (dispatch ch s f).config = s.config := by
  rcases dispatch_cases ch s f with ⟨_, h⟩ | ⟨e, _, h⟩
  · simp [h]
  · rcases resolveSignal_cases e.signal (updateStatus e.status s) with ⟨_, r⟩ | ⟨_, _, _, r⟩ <;> simp [h, r]

@[simp] theorem dispatch_connected (ch : Channel) (s : State) (f : Frame) :
    (dispatch ch s f).connected = s.connected := by
  rcases dispatch_cases ch s f with ⟨_, h⟩ | ⟨e, _, h⟩
  · simp [h]
  · rcases resolveSignal_cases e.signal (updateStatus e.status s) with ⟨_, r⟩ | ⟨_, _, _, r⟩ <;> simp [h, r]

@[simp] theorem dispatch_rxbuf (ch : Channel) (s : State) (f : Frame) (c : Channel) :
    (dispatch ch s f).rxbuf c = s.rxbuf c := by
  rcases dispatch_cases ch s f with ⟨_, h⟩ | ⟨e, _, h⟩
  · simp [h]
  · rcases resolveSignal_cases e.signal (updateStatus e.status s) with ⟨_, r⟩ | ⟨_, _, _, r⟩ <;> simp [h, r]

@[simp] theorem dispatch_now (ch : Channel) (s : State) (f : Frame) : (dispatch ch s f).now = s.now := by
  rcases dispatch_cases ch s f with ⟨_, h⟩ | ⟨e, _, h⟩
  · simp [h]
  · rcases resolveSignal_cases e.signal (updateStatus e.status s) with ⟨_, r⟩ | ⟨_, _, _, r⟩ <;> simp [h, r]

@[simp] theorem dispatch_seq (ch : Channel) (s : State) (f : Frame) : (dispatch ch s f).seq = s.seq := by
  rcases dispatch_cases ch s f with ⟨_, h⟩ | ⟨e, _, h⟩
  · simp [h]
  · rcases resolveSignal_cases e.signal (updateStatus e.status s) with ⟨_, r⟩ | ⟨_, _, _, r⟩ <;> simp [h, r]

@[simp] theorem dispatch_inputs (ch : Channel) (s : State) (f : Frame) : (dispatch ch s f).inputs = s.inputs := by
  rcases dispatch_cases ch s f with ⟨_, h⟩ | ⟨e, _, h⟩
  · simp [h]
  · rcases resolveSignal_cases e.signal (updateStatus e.status s) with ⟨_, r⟩ | ⟨_, _, _, r⟩ <;> simp [h, r]

@[simp] theorem dispatch_answers (ch : Channel) (s : State) (f : Frame) : (dispatch ch s f).answers = s.answers := by
  rcases dispatch_cases ch s f with ⟨_, h⟩ | ⟨e, _, h⟩
  · simp [h]
  · rcases resolveSignal_cases e.signal (updateStatus e.status s) with ⟨_, r⟩ | ⟨_, _, _, r⟩ <;> simp [h, r]

/-! ## receive -/

/-- What every dispatched frame keeps, all frames of a chunk keep. -/
theorem dispatchAll_keeps {P : State → Prop} {ch : Channel} (h : ∀ s f, P s → P (dispatch ch s f)) (fs : List Frame) :
    ∀ {s : State}, P s → P (fs.foldl (dispatch ch) s) := by
  induction fs with
  | nil => exact fun hs => hs
  | cons f fs ih => exact fun hs => ih (h _ f hs)

/-- All a receive can do: nothing, where it is not enabled; or one receive step. -/
theorem receive_cases (ch : Channel) (c : List Byte) (s : State) :
    (rxEnabled s ch c = false ∧ receive ch c s = s) ∨
      (rxEnabled s ch c = true ∧ receive ch c s =
        (scan s.config.crcTable (s.rxbuf ch ++ c)).1.foldl (dispatch ch)
          (s.setRxbuf ch (scan s.config.crcTable (s.rxbuf ch ++ c)).2)) := by
  cases h : rxEnabled s ch c with
  | false => exact .inl ⟨rfl, by simp [receive, h]⟩
  | true => exact .inr ⟨rfl, by simp [receive, h, receiveStep]⟩

/-- What storing a scan's remainder and every dispatched frame keep, a receive keeps. -/
theorem receive_keeps {P : State → Prop} {ch : Channel} (hd : ∀ s f, P s → P (dispatch ch s f)) {s : State}
    (c : List Byte) (hr : P (s.setRxbuf ch (scan s.config.crcTable (s.rxbuf ch ++ c)).2)) (hs : P s) :
    P (receive ch c s) := by
  rcases receive_cases ch c s with ⟨_, h⟩ | ⟨_, h⟩
  · rw [h]; exact hs
  · rw [h]; exact dispatchAll_keeps hd _ hr

/-- All the arrival of a frame can do: nothing, while disconnected; or one receive step of its wire bytes. -/
theorem receiveFrame_cases (ch : Channel) (id : Byte) (p : List Byte) (s : State) :
    (s.connected = false ∧ receiveFrame ch id p s = s) ∨
      (s.connected = true ∧ receiveFrame ch id p s = receiveStep ch (encodeFrame s.config.crcTable id p) s) := by
  cases h : s.connected <;> simp [receiveFrame, h]

/-- What storing a scan's remainder and every dispatched frame keep, a receive step keeps. -/
theorem receiveStep_keeps {P : State → Prop} {ch : Channel} (hd : ∀ s f, P s → P (dispatch ch s f)) {s : State}
    (c : List Byte) (hr : P (s.setRxbuf ch (scan s.config.crcTable (s.rxbuf ch ++ c)).2)) : P (receiveStep ch c s) :=
  dispatchAll_keeps hd _ hr

@[simp] theorem receive_config (ch : Channel) (c : List Byte) (s : State) : (receive ch c s).config = s.config :=
  receive_keeps (P := fun t => t.config = s.config) (fun _ _ h => by simp [h]) c (by simp) rfl

@[simp] theorem receive_connected (ch : Channel) (c : List Byte) (s : State) :
    (receive ch c s).connected = s.connected :=
  receive_keeps (P := fun t => t.connected = s.connected) (fun _ _ h => by simp [h]) c (by simp) rfl

@[simp] theorem receive_now (ch : Channel) (c : List Byte) (s : State) : (receive ch c s).now = s.now :=
  receive_keeps (P := fun t => t.now = s.now) (fun _ _ h => by simp [h]) c (by simp) rfl

@[simp] theorem receive_seq (ch : Channel) (c : List Byte) (s : State) : (receive ch c s).seq = s.seq :=
  receive_keeps (P := fun t => t.seq = s.seq) (fun _ _ h => by simp [h]) c (by simp) rfl

@[simp] theorem receive_inputs (ch : Channel) (c : List Byte) (s : State) : (receive ch c s).inputs = s.inputs :=
  receive_keeps (P := fun t => t.inputs = s.inputs) (fun _ _ h => by simp [h]) c (by simp) rfl

@[simp] theorem receive_answers (ch : Channel) (c : List Byte) (s : State) : (receive ch c s).answers = s.answers :=
  receive_keeps (P := fun t => t.answers = s.answers) (fun _ _ h => by simp [h]) c (by simp) rfl

end Sys2Proof.Machine
end

