-- ==== Sys2Proof/Laws/Commands.lean ====
section
/-! SUPPORT. What the host commands can do, one lemma each. -/

namespace Sys2Proof.Machine

theorem connectBlock_cases (s : State) :
    (s.connected = true ∧ connectBlock s = s.answer .stateError) ∨
      (s.connected = false ∧ connectBlock s =
        ((((s.setConnected true).setRxbuf .data []).setRxbuf .cmd []).setStatus unknownStatus).answer .ok) := by
  cases h : s.connected <;> simp [connectBlock, h]

theorem disconnectBlock_cases (s : State) :
    (s.connected = false ∧ disconnectBlock s = s.answer .ok) ∨
      (s.connected = true ∧ disconnectBlock s =
        (updateStatus unknownStatus
          (forEachKind (fun k => finishWait k .cancelled)
            (((s.setConnected false).setRxbuf .data []).setRxbuf .cmd []))).answer .ok) := by
  cases h : s.connected <;> simp [disconnectBlock, forgetStatus, h]

theorem sendFrame_cases (ch : Channel) (id : Byte) (p : List Byte) (w : Bool) (s : State) :
    (pMax < p.length ∧ sendFrame ch id p w s = s.answer .encodeError) ∨
      (p.length ≤ pMax ∧ s.connected = false ∧ sendFrame ch id p w s = s.answer .notConnected) ∨
      (p.length ≤ pMax ∧ s.connected = true ∧
        sendFrame ch id p w s =
          (s.emit (.txFrame ch (encodeFrame s.config.crcTable id p))).answer (if w then .ok else .writeError)) := by
  by_cases hp : pMax < p.length
  · exact .inl ⟨hp, by simp [sendFrame, hp]⟩
  · cases hc : s.connected <;> simp [sendFrame, hp, hc] <;> omega

/-- All an ISSUE can do, in the order of its checks (60_exceptions.md rule R1004). -/
theorem issueCommand_cases (k : Kind) (t : Word) (p : List Byte) (w : Bool) (s : State) :
    (timeoutIllegal t = true ∧ issueCommand k t p w s = s.answer .illegal) ∨
      (timeoutIllegal t = false ∧ pMax < p.length ∧ issueCommand k t p w s = s.answer .encodeError) ∨
      (timeoutIllegal t = false ∧ p.length ≤ pMax ∧ s.connected = false ∧
        issueCommand k t p w s = s.answer .notConnected) ∨
      (timeoutIllegal t = false ∧ p.length ≤ pMax ∧ s.connected = true ∧ w = true ∧
        issueCommand k t p w s =
          registerWait k t ((finishWait k .superseded s).emit
            (.txFrame (kindChannel k) (encodeFrame s.config.crcTable (kindMessageId k) p)))) ∨
      (timeoutIllegal t = false ∧ p.length ≤ pMax ∧ s.connected = true ∧ w = false ∧
        issueCommand k t p w s =
          ((finishWait k .superseded s).emit
            (.txFrame (kindChannel k) (encodeFrame s.config.crcTable (kindMessageId k) p))).answer .writeError) := by
  cases ht : timeoutIllegal t with
  | true => exact .inl ⟨rfl, by simp [issueCommand, ht, illegalCommand]⟩
  | false =>
    by_cases hp : pMax < p.length
    · exact .inr (.inl ⟨rfl, hp, by simp [issueCommand, ht, hp]⟩)
    · cases hc : s.connected <;> cases w <;> simp [issueCommand, ht, hp, hc] <;> omega

/-- What `registerWait` does to each element it writes. -/
theorem registerWait_eq (k : Kind) (t : Word) (s : State) :
    registerWait k t s =
      ((s.setSeq (s.seq + 1#16)).setSlot k (.sent (s.now + timeoutTicks t) s.seq)).answer (.registered s.seq) := rfl

theorem readSnapshot_eq (s : State) : readSnapshot s = s.answer (.snapshot (snapshotOf s)) := rfl

theorem illegalCommand_eq (s : State) : illegalCommand s = s.answer .illegal := rfl

theorem receiveError_cases (ch : Channel) (s : State) :
    (s.connected = true ∧ receiveError ch s = s.emit (.transportError ch)) ∨
      (s.connected = false ∧ receiveError ch s = s) := by
  cases h : s.connected <;> simp [receiveError, h]

end Sys2Proof.Machine
end

