-- ==== Sys2Proof/Laws/Outputs.lean ====
section
/-! SUPPORT. What a run has put out, piece by piece; and the operations on waits and status as one explicit state each. -/

namespace Sys2Proof.Machine

/-! ## Outputs of two stretches joined -/

theorem completionsOf_append (k : Kind) (a b : List Event) :
    completionsOf k (a ++ b) = completionsOf k a ++ completionsOf k b := by
  induction a with
  | nil => rfl
  | cons e a ih =>
    cases e <;> simp [completionsOf, ih]
    split <;> simp

theorem completionsWith_append (g : Half) (a b : List Event) :
    completionsWith g (a ++ b) = completionsWith g a + completionsWith g b := by
  induction a with
  | nil => simp [completionsWith]
  | cons e a ih => cases e <;> simp [completionsWith, ih, Nat.add_assoc]

theorem registrationsWith_append (g : Half) (a b : List Answer) :
    registrationsWith g (a ++ b) = registrationsWith g a + registrationsWith g b := by
  induction a with
  | nil => simp [registrationsWith]
  | cons x a ih => cases x <;> simp [registrationsWith, ih, Nat.add_assoc]

theorem statusChanges_append (a b : List Event) : statusChanges (a ++ b) = statusChanges a ++ statusChanges b := by
  induction a with
  | nil => rfl
  | cons e a ih => cases e <;> simp [statusChanges, ih]

/-! ## Explicit states -/

/-- A status write as one explicit state. -/
theorem updateStatus_eq (d : DeviceStatus) (s : State) :
    updateStatus d s =
      { s with
        status := d
        events := s.events ++ (if d = s.status then [] else [.statusChanged d]) } := by
  unfold updateStatus
  split
  · next h => subst h; simp
  · rfl

/-- The end of a wait as one explicit state. -/
theorem finishWait_eq (k : Kind) (e : Ending) (s : State) :
    finishWait k e s =
      State.setSlot
        { s with events := s.events ++ (match s.slot k with | .idle => [] | .sent _ g => [.completion k g e]) } k .idle := by
  unfold finishWait
  cases h : s.slot k with
  | idle =>
    simp only [List.append_nil]
    rw [← h]
    cases k <;> rfl
  | sent d g => rfl

/-- The wrap-safe comparison is the sign of the 32-bit difference (44_correlator.md rule R807). -/
theorem expired_iff (n d : Word) : expired n d = true ↔ 0 ≤ (n - d).toInt := by
  simp only [expired, decide_eq_true_eq, BitVec.lt_def, BitVec.toInt_eq_toNat_cond]
  have := (n - d).isLt
  simp only [BitVec.toNat_ofNat]
  split <;> omega

/-- The timeout of one kind as one explicit state. -/
theorem expireWait_eq (k : Kind) (s : State) :
    expireWait k s =
      State.setSlot { s with events := s.events ++ timeoutAt s.now k (s.slot k) } k (slotAt s.now (s.slot k)) := by
  unfold expireWait
  cases h : s.slot k with
  | idle =>
    simp only [timeoutAt, slotAt, List.append_nil]
    rw [← h]
    cases k <;> rfl
  | sent d g =>
    by_cases he : expired s.now d = true
    · simp only [he, timeoutAt, slotAt, (expired_iff _ _).1 he, finishWait_eq, h, if_true]
    · have hn : ¬ 0 ≤ (s.now - d).toInt := fun hp => he ((expired_iff _ _).2 hp)
      simp only [he, timeoutAt, slotAt, hn, if_false, List.append_nil]
      rw [← h]
      cases k <;> rfl

end Sys2Proof.Machine
end

