-- ==== Sys2Proof/Laws/PerInstr.lean ====
section
/-! SUPPORT. One fact about every instruction: what a well-formed instruction expands to (30_encoding.md rule R317) is well-formed and expands
no further. -/

namespace Sys2Proof.Laws.ExpandWellFormed

/-- The expansion of a well-formed instruction is made of well-formed core instructions. -/
def Statement (i : Instr) : Prop := i.wf = true → ∀ j ∈ i.expand, j.wf = true ∧ j.expand = [j]

theorem connect : Statement .connect := by
  intro h j hj
  cases List.mem_singleton.mp hj
  exact ⟨h, rfl⟩

theorem disconnect : Statement .disconnect := by
  intro h j hj
  cases List.mem_singleton.mp hj
  exact ⟨h, rfl⟩

theorem send (ch : Channel) (id : Byte) (payload : List Byte) (wrOk : Bool) : Statement (.send ch id payload wrOk) := by
  intro h j hj
  cases List.mem_singleton.mp hj
  exact ⟨h, rfl⟩

theorem issue (k : Kind) (timeout : Word) (payload : List Byte) (wrOk : Bool) : Statement (.issue k timeout payload wrOk) := by
  intro h j hj
  cases List.mem_singleton.mp hj
  exact ⟨h, rfl⟩

theorem snapshot : Statement .snapshot := by
  intro h j hj
  cases List.mem_singleton.mp hj
  exact ⟨h, rfl⟩

theorem illegalOp0 (rest : BitVec 28) : Statement (.illegalOp0 rest) := by
  intro h j hj
  cases List.mem_singleton.mp hj
  exact ⟨h, rfl⟩

theorem illegalOp6 (rest : BitVec 28) : Statement (.illegalOp6 rest) := by
  intro h j hj
  cases List.mem_singleton.mp hj
  exact ⟨h, rfl⟩

theorem illegalOp7 (rest : BitVec 28) : Statement (.illegalOp7 rest) := by
  intro h j hj
  cases List.mem_singleton.mp hj
  exact ⟨h, rfl⟩

theorem illegalOp8 (rest : BitVec 28) : Statement (.illegalOp8 rest) := by
  intro h j hj
  cases List.mem_singleton.mp hj
  exact ⟨h, rfl⟩

theorem illegalOp9 (rest : BitVec 28) : Statement (.illegalOp9 rest) := by
  intro h j hj
  cases List.mem_singleton.mp hj
  exact ⟨h, rfl⟩

theorem illegalOpA (rest : BitVec 28) : Statement (.illegalOpA rest) := by
  intro h j hj
  cases List.mem_singleton.mp hj
  exact ⟨h, rfl⟩

theorem illegalOpB (rest : BitVec 28) : Statement (.illegalOpB rest) := by
  intro h j hj
  cases List.mem_singleton.mp hj
  exact ⟨h, rfl⟩

theorem illegalOpC (rest : BitVec 28) : Statement (.illegalOpC rest) := by
  intro h j hj
  cases List.mem_singleton.mp hj
  exact ⟨h, rfl⟩

theorem illegalOpD (rest : BitVec 28) : Statement (.illegalOpD rest) := by
  intro h j hj
  cases List.mem_singleton.mp hj
  exact ⟨h, rfl⟩

theorem illegalOpE (rest : BitVec 28) : Statement (.illegalOpE rest) := by
  intro h j hj
  cases List.mem_singleton.mp hj
  exact ⟨h, rfl⟩

theorem illegalOpF (rest : BitVec 28) : Statement (.illegalOpF rest) := by
  intro h j hj
  cases List.mem_singleton.mp hj
  exact ⟨h, rfl⟩

theorem rx (ch : Channel) (chunk : List Byte) : Statement (.rx ch chunk) := by
  intro h j hj
  cases List.mem_singleton.mp hj
  exact ⟨h, rfl⟩

theorem rxErr (ch : Channel) : Statement (.rxErr ch) := by
  intro h j hj
  cases List.mem_singleton.mp hj
  exact ⟨h, rfl⟩

theorem tick : Statement .tick := by
  intro h j hj
  cases List.mem_singleton.mp hj
  exact ⟨h, rfl⟩

theorem rxStatus (payload : List Byte) : Statement (.rxStatus payload) := by
  intro h j hj
  cases List.mem_singleton.mp hj
  exact ⟨h, rfl⟩

theorem rxAck (payload : List Byte) : Statement (.rxAck payload) := by
  intro h j hj
  cases List.mem_singleton.mp hj
  exact ⟨h, rfl⟩

theorem rxTestResult (payload : List Byte) : Statement (.rxTestResult payload) := by
  intro h j hj
  cases List.mem_singleton.mp hj
  exact ⟨h, rfl⟩

theorem txNoise (timeout : Word) (payload : List Byte) (wrOk : Bool) : Statement (.txNoise timeout payload wrOk) := by
  intro h j hj
  cases List.mem_singleton.mp hj
  exact ⟨h, rfl⟩

theorem txAncLevel (timeout : Word) (payload : List Byte) (wrOk : Bool) : Statement (.txAncLevel timeout payload wrOk) := by
  intro h j hj
  cases List.mem_singleton.mp hj
  exact ⟨h, rfl⟩

theorem txAmbientLevel (timeout : Word) (payload : List Byte) (wrOk : Bool) : Statement (.txAmbientLevel timeout payload wrOk) := by
  intro h j hj
  cases List.mem_singleton.mp hj
  exact ⟨h, rfl⟩

theorem txTestConn (timeout : Word) (payload : List Byte) (wrOk : Bool) : Statement (.txTestConn timeout payload wrOk) := by
  intro h j hj
  cases List.mem_singleton.mp hj
  exact ⟨h, rfl⟩

theorem txStatusRequest (payload : List Byte) (wrOk : Bool) : Statement (.txStatusRequest payload wrOk) := by
  intro h j hj
  cases List.mem_singleton.mp hj
  exact ⟨h, rfl⟩

theorem rxOther (ch : Channel) (id : Byte) (payload : List Byte) : Statement (.rxOther ch id payload) := by
  intro h j hj
  cases List.mem_singleton.mp hj
  exact ⟨h, rfl⟩

theorem setNoise (b : Byte) (timeout : Word) (wrOk : Bool) : Statement (.setNoise b timeout wrOk) := by
  intro _ j hj
  cases List.mem_singleton.mp hj
  exact ⟨by simp [Instr.wf, plenMax], rfl⟩

theorem setAnc (b : Byte) (timeout : Word) (wrOk : Bool) : Statement (.setAnc b timeout wrOk) := by
  intro _ j hj
  cases List.mem_singleton.mp hj
  exact ⟨by simp [Instr.wf, plenMax], rfl⟩

theorem setAmbient (b : Byte) (timeout : Word) (wrOk : Bool) : Statement (.setAmbient b timeout wrOk) := by
  intro _ j hj
  cases List.mem_singleton.mp hj
  exact ⟨by simp [Instr.wf, plenMax], rfl⟩

theorem testConn (timeout : Word) (wrOk : Bool) : Statement (.testConn timeout wrOk) := by
  intro _ j hj
  cases List.mem_singleton.mp hj
  exact ⟨by simp [Instr.wf, plenMax], rfl⟩

theorem reqStatus (wrOk : Bool) : Statement (.reqStatus wrOk) := by
  intro _ j hj
  cases List.mem_singleton.mp hj
  exact ⟨by simp [Instr.wf, plenMax], rfl⟩

theorem ticks (n : Nat) : Statement (.ticks n) := by
  intro _ j hj
  cases (List.mem_replicate.mp hj).2
  exact ⟨rfl, rfl⟩

end Sys2Proof.Laws.ExpandWellFormed
end

