-- ==== Sys2Proof/Laws/Step.lean ====
section
/-! SUPPORT. Once, everything an instruction and a step can do. A proof about all steps takes these cases and never unfolds `exec` or
`step`. -/

namespace Sys2Proof.Machine

/-- The operations an instruction comes down to. -/
inductive Action : Instr → State → State → Prop
  | connect (s) : Action .connect s (connectBlock s)
  | disconnect (s) : Action .disconnect s (disconnectBlock s)
  | send {i} (s ch id p w) (hk : issuedKind i = none) (hr : receivedOn i = none) : Action i s (sendFrame ch id p w s)
  | issue {i} (s k t p w) (hk : issuedKind i = some k) : Action i s (issueCommand k t p w s)
  | snapshot (s) : Action .snapshot s (readSnapshot s)
  | illegal {i} (s) (hk : issuedKind i = none) (hr : receivedOn i = none) : Action i s (illegalCommand s)
  | receive {i} (s ch c) (hr : receivedOn i = some ch) : Action i s (receive ch c s)
  | frame {i} (s ch id p) (hr : receivedOn i = some ch) : Action i s (receiveFrame ch id p s)
  | error (s ch) : Action (.rxErr ch) s (receiveError ch s)
  | tick (s) : Action .tick s (tickTimer s)
  | ticks (s n) : Action (.ticks n) s (tickTimes n s)

/-- Every instruction completes, as one of the operations. -/
theorem exec_action (i : Instr) (s : State) : ∃ t, exec i s = .next t ∧ Action i s t := by
  cases i with
  | connect => exact ⟨_, rfl, .connect s⟩
  | disconnect => exact ⟨_, rfl, .disconnect s⟩
  | send ch id p w => exact ⟨_, rfl, .send s ch id p w rfl rfl⟩
  | issue k t p w => exact ⟨_, rfl, .issue s k t p w rfl⟩
  | snapshot => exact ⟨_, rfl, .snapshot s⟩
  | illegalOp0 r => exact ⟨_, rfl, .illegal s rfl rfl⟩
  | illegalOp6 r => exact ⟨_, rfl, .illegal s rfl rfl⟩
  | illegalOp7 r => exact ⟨_, rfl, .illegal s rfl rfl⟩
  | illegalOp8 r => exact ⟨_, rfl, .illegal s rfl rfl⟩
  | illegalOp9 r => exact ⟨_, rfl, .illegal s rfl rfl⟩
  | illegalOpA r => exact ⟨_, rfl, .illegal s rfl rfl⟩
  | illegalOpB r => exact ⟨_, rfl, .illegal s rfl rfl⟩
  | illegalOpC r => exact ⟨_, rfl, .illegal s rfl rfl⟩
  | illegalOpD r => exact ⟨_, rfl, .illegal s rfl rfl⟩
  | illegalOpE r => exact ⟨_, rfl, .illegal s rfl rfl⟩
  | illegalOpF r => exact ⟨_, rfl, .illegal s rfl rfl⟩
  | rx ch c => exact ⟨_, rfl, .receive s ch c rfl⟩
  | rxErr ch => exact ⟨_, rfl, .error s ch⟩
  | tick => exact ⟨_, rfl, .tick s⟩
  | rxStatus p => exact ⟨_, rfl, .frame s .data 0x61#8 p rfl⟩
  | rxAck p => exact ⟨_, rfl, .frame s .data 0x42#8 p rfl⟩
  | rxTestResult p => exact ⟨_, rfl, .frame s .cmd 0x01#8 p rfl⟩
  | txNoise t p w => exact ⟨_, rfl, .issue s .noise t p w rfl⟩
  | txAncLevel t p w => exact ⟨_, rfl, .issue s .ancLevel t p w rfl⟩
  | txAmbientLevel t p w => exact ⟨_, rfl, .issue s .ambientLevel t p w rfl⟩
  | txTestConn t p w => exact ⟨_, rfl, .issue s .testConn t p w rfl⟩
  | txStatusRequest p w => exact ⟨_, rfl, .send s .data 0x61#8 p w rfl rfl⟩
  | rxOther ch id p => exact ⟨_, rfl, .frame s ch id p rfl⟩
  | setNoise b t w => exact ⟨_, rfl, .issue s .noise t [b] w rfl⟩
  | setAnc b t w => exact ⟨_, rfl, .issue s .ancLevel t [b] w rfl⟩
  | setAmbient b t w => exact ⟨_, rfl, .issue s .ambientLevel t [b] w rfl⟩
  | testConn t w => exact ⟨_, rfl, .issue s .testConn t [] w rfl⟩
  | reqStatus w => exact ⟨_, rfl, .send s .data 0x61#8 [] w rfl rfl⟩
  | ticks n => exact ⟨_, rfl, .ticks s n⟩

/-- All a next state of an instruction can be. -/
theorem exec_cases {i : Instr} {s t : State} (h : exec i s = .next t) : Action i s t := by
  obtain ⟨u, hu, ha⟩ := exec_action i s
  rw [h] at hu
  cases hu
  exact ha

/-- All a next state of a step can be: nothing arrived; an illegal host command; a dropped input; or an instruction. -/
theorem step_cases {s t : State} (h : step s = .next t) :
    (s.inputs = [] ∧ t = s) ∨
      ∃ inp rest, s.inputs = inp :: rest ∧
        ((decode inp = .illegal ∧ t = (s.setInputs rest).answer .illegal) ∨
          (decode inp = .dropped ∧ t = s.setInputs rest) ∨
          ∃ i, decode inp = .instr i ∧ exec i (s.setInputs rest) = .next t) := by
  unfold step nextInput at h
  cases hi : s.inputs with
  | nil =>
    simp only [hi] at h
    exact .inl ⟨rfl, by cases h; rfl⟩
  | cons inp rest =>
    refine .inr ⟨inp, rest, rfl, ?_⟩
    simp only [hi, stepInput] at h
    cases hd : decode inp with
    | instr i => exact .inr (.inr ⟨i, rfl, by simpa [hd] using h⟩)
    | illegal =>
      simp only [hd] at h
      exact .inl ⟨rfl, by cases h; rfl⟩
    | dropped =>
      simp only [hd] at h
      exact .inr (.inl ⟨rfl, by cases h; rfl⟩)
    | malformed => simp [hd] at h

/-- A step whose next input decodes to an instruction, in the model's own terms. -/
theorem stepInput_instr {inp : Input} {i : Instr} (h : decode inp = .instr i) (s : State) : stepInput inp s = exec i s := by
  simp [stepInput, h]

end Sys2Proof.Machine
end

