-- ==== Sys2Proof/Laws/Signals.lean ====
section
/-! SUPPORT. Which input can end a wait, and how: the signals the dispatcher finds in a frame, the frames a received input brings, and the
ISSUE an input decodes to. -/

namespace Sys2Proof.Machine

/-- The dispatcher gives kind `k` the value `v` for exactly the frames that are the signal the kind expects. -/
theorem signals_iff (c : Config) (old : DeviceStatus) (f : Frame) (k : Kind) (v : Byte) :
    Signals c old f k v ↔ ∃ e, interpret c (kindChannel k) f old = some e ∧ e.signal = some (k, v) := by
  obtain ⟨id, p⟩ := f
  constructor
  · intro h
    cases k with
    | noise =>
      rcases h with ⟨rfl, rest, rfl⟩ | ⟨rfl, hl, hv, hn⟩
      · exact ⟨_, rfl, rfl⟩
      · obtain ⟨hlt, hv⟩ := List.getElem?_eq_some_iff.mp hv
        simp only at hl hv
        exact ⟨_, by simp only [interpret, kindChannel, status61, hl, dif_pos, if_true]; rfl, by simp [hv, hn]⟩
    | ancLevel => obtain ⟨rfl, rest, rfl⟩ := h; exact ⟨_, rfl, rfl⟩
    | ambientLevel => obtain ⟨rfl, rest, rfl⟩ := h; exact ⟨_, rfl, rfl⟩
    | testConn => obtain ⟨rfl, rest, rfl⟩ := h; exact ⟨_, rfl, rfl⟩
  · rintro ⟨e, h, hs⟩
    have hack : ∀ {k}, k ≠ .testConn → ack42 c p old = some e → e.signal = some (k, v) → id = 0x42#8 →
        Signals c old ⟨id, p⟩ k v := by
      intro k hk h hs hid
      match p with
      | [] => cases h
      | [_] => cases h
      | a :: w :: rest =>
        simp only [ack42] at h
        split at h
        · next ha => cases h; cases hs; exact .inl ⟨hid, rest, by rw [ha]⟩
        · split at h
          · next ha => cases h; cases hs; exact ⟨hid, rest, by rw [ha]⟩
          · split at h
            · next ha => cases h; cases hs; exact ⟨hid, rest, by rw [ha]⟩
            · cases h
    cases hk : kindChannel k with
    | data =>
      have hk3 : k ≠ .testConn := by rintro rfl; cases hk
      rw [hk] at h
      simp only [interpret] at h
      split at h
      · next hid =>
        unfold status61 at h
        split at h
        · next hl =>
          cases h
          simp only at hs
          split at hs
          · next hn =>
            cases hs
            exact .inr ⟨hid, hl, List.getElem?_eq_some_iff.mpr ⟨_, rfl⟩, hn⟩
          · cases hs
        · cases h
      · split at h
        · next hid => exact hack hk3 h hs hid
        · cases h
    | cmd =>
      have hk3 : k = .testConn := by cases k <;> first | rfl | cases hk
      subst hk3
      rw [hk] at h
      simp only [interpret] at h
      split at h
      · next hid =>
        match p with
        | [] => cases h
        | w :: rest => cases h; cases hs; exact ⟨hid, rest, rfl⟩
      · cases h

/-- All an input that brings bytes on `ch` can do: nothing, where it brings no frame and keeps no byte; or its frames dispatched in order,
in the state with the new remainder. -/
theorem received_cases {i : Instr} {ch : Channel} (hr : receivedOn i = some ch) (s : State) :
    (framesBrought s i = [] ∧ exec i s = .next s) ∨
      ∃ r, exec i s = .next ((framesBrought s i).foldl (dispatch ch) (s.setRxbuf ch r)) := by
  have frame : ∀ ch id p, (framesOfMessage ch id p s = [] ∧ receiveFrame ch id p s = s) ∨
      ∃ r, receiveFrame ch id p s = (framesOfMessage ch id p s).foldl (dispatch ch) (s.setRxbuf ch r) := by
    intro ch id p
    cases hc : s.connected with
    | false => exact .inl ⟨by simp [framesOfMessage, hc], by simp [receiveFrame, hc]⟩
    | true => exact .inr ⟨_, by simp only [receiveFrame, framesOfMessage, hc, if_true]; rfl⟩
  cases i <;> cases hr
  case rx c =>
    cases he : rxEnabled s ch c with
    | false => exact .inl ⟨by simp [framesBrought, he], by simp [exec, execRx, receive, he]⟩
    | true => exact .inr ⟨_, by simp only [exec, execRx, receive, framesBrought, he, if_true]; rfl⟩
  case rxStatus p =>
    rcases frame .data 0x61#8 p with h | ⟨r, h⟩
    · exact .inl ⟨h.1, congrArg _ h.2⟩
    · exact .inr ⟨r, congrArg _ h⟩
  case rxAck p =>
    rcases frame .data 0x42#8 p with h | ⟨r, h⟩
    · exact .inl ⟨h.1, congrArg _ h.2⟩
    · exact .inr ⟨r, congrArg _ h⟩
  case rxTestResult p =>
    rcases frame .cmd 0x01#8 p with h | ⟨r, h⟩
    · exact .inl ⟨h.1, congrArg _ h.2⟩
    · exact .inr ⟨r, congrArg _ h⟩
  case rxOther id p =>
    rcases frame ch id p with h | ⟨r, h⟩
    · exact .inl ⟨h.1, congrArg _ h.2⟩
    · exact .inr ⟨r, congrArg _ h⟩

/-- `i`, if it is an ISSUE of a kind, runs as that ISSUE with the transport's answer `w`. -/
def IssuesWith (w : Bool) (i : Instr) : Prop :=
  ∀ k, issuedKind i = some k → ∀ s, ∃ t p, exec i s = .next (issueCommand k t p w s)

/-- An instruction that is no ISSUE. -/
theorem issuesWith_none {w : Bool} {i : Instr} (h : issuedKind i = none) : IssuesWith w i := by
  intro k hk
  rw [h] at hk
  cases hk

theorem decodeHost_issue {w : Word} {tail : List Byte} {wr : Bool} {i : Instr} (h : decodeHost w tail wr = .instr i) :
    IssuesWith wr i := by
  simp only [decodeHost, reservedOp, alone] at h
  repeat' split at h
  all_goals first
    | (cases h; done)
    | (cases h; exact issuesWith_none rfl)
    | (cases h; rintro k hk s; cases hk; exact ⟨_, _, rfl⟩)

theorem decodeTransport_issue {w : Word} {tail : List Byte} {wr : Bool} {i : Instr}
    (h : decodeTransport w tail = .instr i) : IssuesWith wr i := by
  simp only [decodeTransport, alone] at h
  repeat' split at h
  all_goals first
    | (cases h; done)
    | (cases h; exact issuesWith_none rfl)

theorem decodeTimer_issue {w : Word} {tail : List Byte} {wr : Bool} {i : Instr} (h : decodeTimer w tail = .instr i) :
    IssuesWith wr i := by
  simp only [decodeTimer, alone] at h
  repeat' split at h
  all_goals first
    | (cases h; done)
    | (cases h; exact issuesWith_none rfl)

theorem decodeRxFrame_issue {ch : Channel} {id : Byte} {p : List Byte} {wr : Bool} {i : Instr}
    (h : decodeRxFrame ch id p = .instr i) : IssuesWith wr i := by
  simp only [decodeRxFrame, rxInstr] at h
  repeat' split at h
  all_goals first
    | (cases h; done)
    | (cases h; exact issuesWith_none rfl)

theorem decodeTxFrame_issue {ch : Channel} {id : Byte} {tail : List Byte} {wr : Bool} {i : Instr}
    (h : decodeTxFrame ch id tail wr = .instr i) : IssuesWith wr i := by
  simp only [decodeTxFrame, decodeTxIssue] at h
  repeat' split at h
  all_goals first
    | (cases h; done)
    | (cases h; exact issuesWith_none rfl)
    | (cases h; rintro k hk s; cases hk; exact ⟨_, _, rfl⟩)

/-- An input that decodes to an ISSUE of a kind runs as that ISSUE with the transport's answer the input carries. -/
theorem decode_issue {inp : Input} {i : Instr} (h : decode inp = .instr i) : IssuesWith inp.wrOk i := by
  unfold decode decodeWords decodeFrame at h
  repeat' split at h
  all_goals first
    | exact decodeHost_issue h
    | exact decodeTransport_issue h
    | exact decodeTimer_issue h
    | exact decodeRxFrame_issue h
    | exact decodeTxFrame_issue h
    | cases h

end Sys2Proof.Machine
end

