-- ==== Sys2Proof/Tests/Slice0.lean ====
section
/-! SUPPORT. The model's own tests. Expected values come from spec/95_test_vectors.md and from the encoding tables of
spec/30_encoding.md; each names its vector. The configuration is the spec's example set: the candidate CRC table of
40_crc.md rule R408 and the candidate NC_DECODE of 43_dispatch.md rule R701 (PRESUMED, 93_implementation_defined.md G1 and G2), the
offsets of R702. Nothing outside this file uses them. -/

namespace Sys2Proof.Tests

-- Many small kernel evaluations: one after another, not one thread each.
set_option Elab.async false

open Sys2Proof Sys2Proof.Machine

/-! ## The example block -/

/-- Rows 0 to 7 of the candidate table. -/
def crcRows0 : List Half :=
  [0x0000#16, 0x1021#16, 0x2042#16, 0x3063#16, 0x4084#16, 0x50A5#16, 0x60C6#16, 0x70E7#16] ++
  [0x8108#16, 0x9129#16, 0xA14A#16, 0xB16B#16, 0xC18C#16, 0xD1AD#16, 0xE1CE#16, 0xF1EF#16] ++
  [0x1231#16, 0x0210#16, 0x3273#16, 0x2252#16, 0x52B5#16, 0x4294#16, 0x72F7#16, 0x62D6#16] ++
  [0x9339#16, 0x8318#16, 0xB37B#16, 0xA35A#16, 0xD3BD#16, 0xC39C#16, 0xF3FF#16, 0xE3DE#16] ++
  [0x2462#16, 0x3443#16, 0x0420#16, 0x1401#16, 0x64E6#16, 0x74C7#16, 0x44A4#16, 0x5485#16] ++
  [0xA56A#16, 0xB54B#16, 0x8528#16, 0x9509#16, 0xE5EE#16, 0xF5CF#16, 0xC5AC#16, 0xD58D#16] ++
  [0x3653#16, 0x2672#16, 0x1611#16, 0x0630#16, 0x76D7#16, 0x66F6#16, 0x5695#16, 0x46B4#16] ++
  [0xB75B#16, 0xA77A#16, 0x9719#16, 0x8738#16, 0xF7DF#16, 0xE7FE#16, 0xD79D#16, 0xC7BC#16]

/-- Rows 8 to 15 of the candidate table. -/
def crcRows8 : List Half :=
  [0x48C4#16, 0x58E5#16, 0x6886#16, 0x78A7#16, 0x0840#16, 0x1861#16, 0x2802#16, 0x3823#16] ++
  [0xC9CC#16, 0xD9ED#16, 0xE98E#16, 0xF9AF#16, 0x8948#16, 0x9969#16, 0xA90A#16, 0xB92B#16] ++
  [0x5AF5#16, 0x4AD4#16, 0x7AB7#16, 0x6A96#16, 0x1A71#16, 0x0A50#16, 0x3A33#16, 0x2A12#16] ++
  [0xDBFD#16, 0xCBDC#16, 0xFBBF#16, 0xEB9E#16, 0x9B79#16, 0x8B58#16, 0xBB3B#16, 0xAB1A#16] ++
  [0x6CA6#16, 0x7C87#16, 0x4CE4#16, 0x5CC5#16, 0x2C22#16, 0x3C03#16, 0x0C60#16, 0x1C41#16] ++
  [0xEDAE#16, 0xFD8F#16, 0xCDEC#16, 0xDDCD#16, 0xAD2A#16, 0xBD0B#16, 0x8D68#16, 0x9D49#16] ++
  [0x7E97#16, 0x6EB6#16, 0x5ED5#16, 0x4EF4#16, 0x3E13#16, 0x2E32#16, 0x1E51#16, 0x0E70#16] ++
  [0xFF9F#16, 0xEFBE#16, 0xDFDD#16, 0xCFFC#16, 0xBF1B#16, 0xAF3A#16, 0x9F59#16, 0x8F78#16]

/-- Rows 16 to 23 of the candidate table. -/
def crcRows16 : List Half :=
  [0x9188#16, 0x81A9#16, 0xB1CA#16, 0xA1EB#16, 0xD10C#16, 0xC12D#16, 0xF14E#16, 0xE16F#16] ++
  [0x1080#16, 0x00A1#16, 0x30C2#16, 0x20E3#16, 0x5004#16, 0x4025#16, 0x7046#16, 0x6067#16] ++
  [0x83B9#16, 0x9398#16, 0xA3FB#16, 0xB3DA#16, 0xC33D#16, 0xD31C#16, 0xE37F#16, 0xF35E#16] ++
  [0x02B1#16, 0x1290#16, 0x22F3#16, 0x32D2#16, 0x4235#16, 0x5214#16, 0x6277#16, 0x7256#16] ++
  [0xB5EA#16, 0xA5CB#16, 0x95A8#16, 0x8589#16, 0xF56E#16, 0xE54F#16, 0xD52C#16, 0xC50D#16] ++
  [0x34E2#16, 0x24C3#16, 0x14A0#16, 0x0481#16, 0x7466#16, 0x6447#16, 0x5424#16, 0x4405#16] ++
  [0xA7DB#16, 0xB7FA#16, 0x8799#16, 0x97B8#16, 0xE75F#16, 0xF77E#16, 0xC71D#16, 0xD73C#16] ++
  [0x26D3#16, 0x36F2#16, 0x0691#16, 0x16B0#16, 0x6657#16, 0x7676#16, 0x4615#16, 0x5634#16]

/-- Rows 24 to 31 of the candidate table. -/
def crcRows24 : List Half :=
  [0xD94C#16, 0xC96D#16, 0xF90E#16, 0xE92F#16, 0x99C8#16, 0x89E9#16, 0xB98A#16, 0xA9AB#16] ++
  [0x5844#16, 0x4865#16, 0x7806#16, 0x6827#16, 0x18C0#16, 0x08E1#16, 0x3882#16, 0x28A3#16] ++
  [0xCB7D#16, 0xDB5C#16, 0xEB3F#16, 0xFB1E#16, 0x8BF9#16, 0x9BD8#16, 0xABBB#16, 0xBB9A#16] ++
  [0x4A75#16, 0x5A54#16, 0x6A37#16, 0x7A16#16, 0x0AF1#16, 0x1AD0#16, 0x2AB3#16, 0x3A92#16] ++
  [0xFD2E#16, 0xED0F#16, 0xDD6C#16, 0xCD4D#16, 0xBDAA#16, 0xAD8B#16, 0x9DE8#16, 0x8DC9#16] ++
  [0x7C26#16, 0x6C07#16, 0x5C64#16, 0x4C45#16, 0x3CA2#16, 0x2C83#16, 0x1CE0#16, 0x0CC1#16] ++
  [0xEF1F#16, 0xFF3E#16, 0xCF5D#16, 0xDF7C#16, 0xAF9B#16, 0xBFBA#16, 0x8FD9#16, 0x9FF8#16] ++
  [0x6E17#16, 0x7E36#16, 0x4E55#16, 0x5E74#16, 0x2E93#16, 0x3EB2#16, 0x0ED1#16, 0x1EF0#16]

def crcTable : CrcTable := ⟨(crcRows0 ++ crcRows8 ++ crcRows16 ++ crcRows24).toArray, by decide +kernel⟩

def ncDecodeRows : List NcMode := .off :: .anc :: .ambient :: .adaptive :: List.replicate 252 .unknown

def ncTable : Vector NcMode 256 := ⟨ncDecodeRows.toArray, by decide +kernel⟩

/-- STATUS_MIN_LEN = 8, RX_CAP = 4099, CHUNK_MAX = 4099. -/
def parameters : Parameters :=
  { crcTable := crcTable, ncDecode := ncTable, statusMinLen := 8, offBattL := 2, offBattR := 3, offWear := 6, offNc := 7
    wearBit := 0, rxCap := 4099, chunkMax := 4099 }

def config : Config :=
  { crcTable := crcTable, ncDecode := ncTable, offBattL := 2, offBattR := 3, offWear := 6, offNc := 7, wearBit := 0
    statusSlack := 1, rxSpare := 0, chunkSpare := 4098 }

/-- The example block after power-on, the timer drawn as `n`. -/
def off (n : Word) : State := { State.reset with config := config, now := n }

/-- The same, connected. -/
def on (n : Word) : State := (off n).setConnected true

/-- The next state of an outcome. -/
def result : Host.Outcome State Fault Refusal → Option State
  | .next t => some t
  | .fault _ => none
  | .refused _ => none

/-- A field of the state an instruction leads to. -/
def after {α : Type} (i : Instr) (s : State) (f : State → α) : Option α := (result (exec i s)).map f

/-- The block with one input to come. -/
def offered (s : State) (port : Port) (bytes : List Byte) : State := s.setInputs [⟨port, bytes, true⟩]

def zeros (n : Nat) : List Byte := List.replicate n 0#8

theorem zeros_length (n : Nat) : (zeros n).length = n := List.length_replicate

/-! ## Well-formedness: each check refuses an ill-formed term -/

theorem test_wf_send : Instr.wf (.send .data 0x61#8 (zeros 65536) true) = false ∧ Instr.wf (.send .data 0x61#8 (zeros 65535) true) = true := by
  simp [Instr.wf, zeros_length, plenMax]

theorem test_wf_issue : Instr.wf (.issue .noise 0#32 (zeros 65536) true) = false ∧ Instr.wf (.issue .noise 0#32 (zeros 65535) true) = true := by
  simp [Instr.wf, zeros_length, plenMax]

theorem test_wf_rx : Instr.wf (.rx .cmd (zeros 65536)) = false ∧ Instr.wf (.rx .cmd (zeros 65535)) = true := by
  simp [Instr.wf, zeros_length, plenMax]

theorem test_wf_rxStatus : Instr.wf (.rxStatus (zeros 4093)) = false ∧ Instr.wf (.rxStatus (zeros 4092)) = true := by
  simp [Instr.wf, zeros_length, pMax]

theorem test_wf_rxAck : Instr.wf (.rxAck (zeros 4093)) = false ∧ Instr.wf (.rxAck (zeros 4092)) = true := by
  simp [Instr.wf, zeros_length, pMax]

theorem test_wf_rxTestResult : Instr.wf (.rxTestResult (zeros 4093)) = false ∧ Instr.wf (.rxTestResult (zeros 4092)) = true := by
  simp [Instr.wf, zeros_length, pMax]

theorem test_wf_txNoise : Instr.wf (.txNoise 0#32 (zeros 65536) true) = false ∧ Instr.wf (.txNoise 0#32 (zeros 65535) true) = true := by
  simp [Instr.wf, zeros_length, plenMax]

theorem test_wf_txAncLevel : Instr.wf (.txAncLevel 0#32 (zeros 65536) true) = false ∧ Instr.wf (.txAncLevel 0#32 (zeros 65535) true) = true := by
  simp [Instr.wf, zeros_length, plenMax]

theorem test_wf_txAmbientLevel : Instr.wf (.txAmbientLevel 0#32 (zeros 65536) true) = false ∧ Instr.wf (.txAmbientLevel 0#32 (zeros 65535) true) = true := by
  simp [Instr.wf, zeros_length, plenMax]

theorem test_wf_txTestConn : Instr.wf (.txTestConn 0#32 (zeros 65536) true) = false ∧ Instr.wf (.txTestConn 0#32 (zeros 65535) true) = true := by
  simp [Instr.wf, zeros_length, plenMax]

theorem test_wf_txStatusRequest : Instr.wf (.txStatusRequest (zeros 65536) true) = false ∧ Instr.wf (.txStatusRequest (zeros 65535) true) = true := by
  simp [Instr.wf, zeros_length, plenMax]

theorem test_wf_rxOther_length : Instr.wf (.rxOther .data 0x55#8 (zeros 4093)) = false ∧ Instr.wf (.rxOther .data 0x55#8 (zeros 4092)) = true := by
  simp [Instr.wf, zeros_length, pMax, listed]

theorem test_wf_rxOther_data_61 : Instr.wf (.rxOther .data 0x61#8 []) = false ∧ Instr.wf (.rxOther .cmd 0x61#8 []) = true := by
  simp [Instr.wf, listed]

theorem test_wf_rxOther_data_42 : Instr.wf (.rxOther .data 0x42#8 []) = false ∧ Instr.wf (.rxOther .cmd 0x42#8 []) = true := by
  simp [Instr.wf, listed]

theorem test_wf_rxOther_cmd_01 : Instr.wf (.rxOther .cmd 0x01#8 []) = false ∧ Instr.wf (.rxOther .data 0x01#8 []) = true := by
  simp [Instr.wf, listed]

theorem test_parameters_offset_refused :
    Config.ofParameters { parameters with offNc := 9 } = none ∧ Config.ofParameters parameters = some config :=
  ⟨rfl, rfl⟩

theorem test_parameters_bounds_refused :
    Config.ofParameters { parameters with wearBit := 8 } = none ∧ Config.ofParameters { parameters with rxCap := 4098 } = none ∧
      Config.ofParameters { parameters with chunkMax := 0 } = none :=
  ⟨rfl, rfl, rfl⟩

/-! ## Decoding: words written out from R310, R311, R316 and vectors V-H1 to V-H15 -/

theorem test_decode_connect : decode ⟨.host, [0x01#8, 0x00#8, 0x00#8, 0x00#8], true⟩ = .instr (.connect) := by decide

theorem test_decode_disconnect : decode ⟨.host, [0x02#8, 0x00#8, 0x00#8, 0x00#8], true⟩ = .instr (.disconnect) := by decide

theorem test_decode_send_V_H3 : decode ⟨.host, [0x03#8, 0x61#8, 0x00#8, 0x00#8], true⟩ = .instr (.send .data 0x61#8 [] true) := by decide

theorem test_decode_send_V_H4 : decode ⟨.host, [0x13#8, 0x78#8, 0x01#8, 0x00#8, 0xAB#8], true⟩ = .instr (.send .cmd 0x78#8 [0xAB#8] true) := by decide

theorem test_decode_issue_V_H5 : decode ⟨.host, [0x04#8, 0x00#8, 0x01#8, 0x00#8, 0x00#8, 0x00#8, 0x00#8, 0x00#8, 0x01#8], true⟩ = .instr (.issue .noise 0#32 [0x01#8] true) := by decide

theorem test_decode_issue_V_H6 : decode ⟨.host, [0x64#8, 0x00#8, 0x00#8, 0x00#8, 0x03#8, 0x00#8, 0x00#8, 0x00#8], true⟩ = .instr (.issue .testConn 3#32 [] true) := by decide

theorem test_decode_issue_ancLevel : decode ⟨.host, [0x24#8, 0x00#8, 0x01#8, 0x00#8, 0xE8#8, 0x03#8, 0x00#8, 0x00#8, 0x02#8], true⟩ = .instr (.issue .ancLevel 1000#32 [0x02#8] true) := by decide

theorem test_decode_issue_ambientLevel : decode ⟨.host, [0x44#8, 0x00#8, 0x01#8, 0x00#8, 0x00#8, 0x00#8, 0x00#8, 0x00#8, 0x03#8], true⟩ = .instr (.issue .ambientLevel 0#32 [0x03#8] true) := by decide

theorem test_decode_snapshot_V_H7 : decode ⟨.host, [0x05#8, 0x00#8, 0x00#8, 0x00#8], true⟩ = .instr (.snapshot) := by decide

theorem test_decode_op0_V_H8 : decode ⟨.host, [0x00#8, 0x00#8, 0x00#8, 0x00#8], true⟩ = .instr (.illegalOp0 0#28) := by decide

theorem test_decode_op6_V_H8 : decode ⟨.host, [0x06#8, 0x00#8, 0x00#8, 0x00#8], true⟩ = .instr (.illegalOp6 0#28) := by decide

theorem test_decode_op7 : decode ⟨.host, [0xF7#8, 0xFF#8, 0xFF#8, 0xFF#8], true⟩ = .instr (.illegalOp7 0xFFFFFFF#28) := by decide

theorem test_decode_op8 : decode ⟨.host, [0x08#8, 0x00#8, 0x09#8, 0x00#8], true⟩ = .instr (.illegalOp8 0x0009000#28) := by decide

theorem test_decode_op9 : decode ⟨.host, [0x19#8, 0x00#8, 0x00#8, 0x00#8], true⟩ = .instr (.illegalOp9 1#28) := by decide

theorem test_decode_opA_V_H13 : decode ⟨.host, [0x0A#8, 0x00#8, 0x00#8, 0x00#8], true⟩ = .instr (.illegalOpA 0#28) := by decide

theorem test_decode_opB : decode ⟨.host, [0x0B#8, 0x00#8, 0x00#8, 0x00#8], true⟩ = .instr (.illegalOpB 0#28) := by decide

theorem test_decode_opC : decode ⟨.host, [0x0C#8, 0x00#8, 0x00#8, 0x00#8], true⟩ = .instr (.illegalOpC 0#28) := by decide

theorem test_decode_opD : decode ⟨.host, [0x0D#8, 0x00#8, 0x00#8, 0x00#8], true⟩ = .instr (.illegalOpD 0#28) := by decide

theorem test_decode_opE : decode ⟨.host, [0x0E#8, 0x00#8, 0x00#8, 0x00#8], true⟩ = .instr (.illegalOpE 0#28) := by decide

theorem test_decode_opF_V_H8 : decode ⟨.host, [0x0F#8, 0x00#8, 0x00#8, 0x00#8], true⟩ = .instr (.illegalOpF 0#28) := by decide

theorem test_decode_rx : decode ⟨.transport, [0x18#8, 0x00#8, 0x04#8, 0x00#8, 0xFD#8, 0x04#8, 0x00#8, 0x01#8], true⟩ = .instr (.rx .cmd [0xFD#8, 0x04#8, 0x00#8, 0x01#8]) := by decide

theorem test_decode_rxErr : decode ⟨.transport, [0x19#8, 0x00#8, 0x00#8, 0x00#8], true⟩ = .instr (.rxErr .cmd) := by decide

theorem test_decode_tick : decode ⟨.timer, [0x0A#8, 0x00#8, 0x00#8, 0x00#8], true⟩ = .instr (.tick) := by decide

theorem test_decode_rxStatus : decode ⟨(.rxFrame .data), [0x61#8, 0x07#8], true⟩ = .instr (.rxStatus [0x07#8]) := by decide

theorem test_decode_rxAck : decode ⟨(.rxFrame .data), [0x42#8, 0x78#8, 0x01#8], true⟩ = .instr (.rxAck [0x78#8, 0x01#8]) := by decide

theorem test_decode_rxTestResult : decode ⟨(.rxFrame .cmd), [0x01#8, 0x00#8], true⟩ = .instr (.rxTestResult [0x00#8]) := by decide

theorem test_decode_rxOther : decode ⟨(.rxFrame .cmd), [0x42#8, 0x78#8, 0x01#8], true⟩ = .instr (.rxOther .cmd 0x42#8 [0x78#8, 0x01#8]) := by decide

theorem test_decode_txNoise : decode ⟨(.txFrame .data), [0x78#8, 0x03#8, 0x00#8, 0x00#8, 0x00#8, 0x01#8], true⟩ = .instr (.txNoise 3#32 [0x01#8] true) := by decide

theorem test_decode_txAncLevel : decode ⟨(.txFrame .data), [0x83#8, 0x00#8, 0x00#8, 0x00#8, 0x00#8, 0x02#8], true⟩ = .instr (.txAncLevel 0#32 [0x02#8] true) := by decide

theorem test_decode_txAmbientLevel : decode ⟨(.txFrame .data), [0x84#8, 0x00#8, 0x00#8, 0x00#8, 0x00#8, 0x03#8], true⟩ = .instr (.txAmbientLevel 0#32 [0x03#8] true) := by decide

theorem test_decode_txTestConn : decode ⟨(.txFrame .cmd), [0x01#8, 0x00#8, 0x00#8, 0x00#8, 0x80#8], true⟩ = .instr (.txTestConn 0x80000000#32 [] true) := by decide

theorem test_decode_txStatusRequest : decode ⟨(.txFrame .data), [0x61#8], true⟩ = .instr (.txStatusRequest [] true) := by decide

theorem test_decode_illegal_V_H9_H10_H11 :
    decode ⟨.host, [0x81#8, 0x00#8, 0x00#8, 0x00#8], true⟩ = .illegal ∧ decode ⟨.host, [0x11#8, 0x00#8, 0x00#8, 0x00#8], true⟩ = .illegal ∧ decode ⟨.host, [0x04#8, 0x61#8, 0x00#8, 0x00#8], true⟩ = .illegal := by decide

theorem test_decode_dropped_V_H14 : decode ⟨.timer, [0x03#8, 0x00#8, 0x00#8, 0x00#8], true⟩ = .dropped := by decide

/-- One unused field of R311's table not zero: TICK with MSG_ID and with CH; RX with MSG_ID; RX_ERR with KIND, with bit 7 and with PLEN. -/
theorem test_decode_unused_fields_dropped :
    decode ⟨.timer, [0x0A#8, 0xFF#8, 0x00#8, 0x00#8], true⟩ = .dropped ∧ decode ⟨.timer, [0x1A#8, 0x00#8, 0x00#8, 0x00#8], true⟩ = .dropped ∧
      decode ⟨.transport, [0x08#8, 0x01#8, 0x01#8, 0x00#8, 0xFD#8], true⟩ = .dropped ∧ decode ⟨.transport, [0x29#8, 0x00#8, 0x00#8, 0x00#8], true⟩ = .dropped ∧
      decode ⟨.transport, [0x89#8, 0x00#8, 0x00#8, 0x00#8], true⟩ = .dropped ∧ decode ⟨.transport, [0x09#8, 0x00#8, 0x01#8, 0x00#8], true⟩ = .dropped := by decide

theorem test_decode_malformed : decode ⟨.host, [0x03#8, 0x61#8, 0x01#8, 0x00#8], true⟩ = .malformed := by decide

/-! ## Pseudo-instructions: the words of their expansions (R317, programs P1 to P3) -/

theorem test_encode_setNoise : encode (.setNoise 0x01#8 0#32 true) = [⟨.host, [0x04#8, 0x00#8, 0x01#8, 0x00#8, 0x00#8, 0x00#8, 0x00#8, 0x00#8, 0x01#8], true⟩] := by decide

theorem test_encode_setAnc : encode (.setAnc 0x02#8 1000#32 true) = [⟨.host, [0x24#8, 0x00#8, 0x01#8, 0x00#8, 0xE8#8, 0x03#8, 0x00#8, 0x00#8, 0x02#8], true⟩] := by decide

theorem test_encode_setAmbient : encode (.setAmbient 0x03#8 0#32 true) = [⟨.host, [0x44#8, 0x00#8, 0x01#8, 0x00#8, 0x00#8, 0x00#8, 0x00#8, 0x00#8, 0x03#8], true⟩] := by decide

theorem test_encode_testConn : encode (.testConn 3#32 true) = [⟨.host, [0x64#8, 0x00#8, 0x00#8, 0x00#8, 0x03#8, 0x00#8, 0x00#8, 0x00#8], true⟩] := by decide

theorem test_encode_reqStatus : encode (.reqStatus true) = [⟨.host, [0x03#8, 0x61#8, 0x00#8, 0x00#8], true⟩] := by decide

theorem test_encode_ticks : encode (.ticks 2) = [⟨.timer, [0x0A#8, 0x00#8, 0x00#8, 0x00#8], true⟩, ⟨.timer, [0x0A#8, 0x00#8, 0x00#8, 0x00#8], true⟩] := by decide

theorem test_table_word_row : decodeTableWord 8 0x61 = some (.rxStatus []) ∧ decodeTableWord 8 0x83 = some (.txAncLevel 0#32 [] true) ∧
    decodeTableWord 32 0xFFFFFFF6 = some (.illegalOp6 0xFFFFFFF#28) := by
  decide +kernel

/-! ## CRC, encode and scan (V-K, V-E, V-S) -/

theorem test_crc_V_K9_K13 :
    crc16 crcTable [0x78#8, 0x01#8] = 0x91D1#16 ∧ crc16 crcTable [0x31#8, 0x32#8, 0x33#8, 0x34#8, 0x35#8, 0x36#8, 0x37#8, 0x38#8, 0x39#8] = 0x31C3#16 := by decide +kernel

theorem test_encode_V_E1_E16 :
    encodeFrame crcTable 0x78#8 [0x01#8] = [0xFD#8, 0x04#8, 0x00#8, 0x78#8, 0x01#8, 0xD1#8, 0x91#8, 0xDD#8] ∧
      encodeFrame crcTable 0x55#8 [0xFD#8, 0xDD#8] = [0xFD#8, 0x05#8, 0x00#8, 0x55#8, 0xFD#8, 0xDD#8, 0x73#8, 0xCA#8, 0xDD#8] := by decide +kernel

theorem test_scan_V_S10 :
    scan crcTable [0xFD#8, 0x04#8, 0x00#8, 0x78#8, 0x01#8, 0xD1#8, 0x90#8, 0xDD#8, 0xFD#8, 0x03#8, 0x00#8, 0x01#8, 0x21#8, 0x10#8, 0xDD#8] =
      ([⟨0x01#8, []⟩], []) := by decide +kernel

theorem test_scan_V_S14 :
    scan crcTable [0xFD#8, 0x07#8, 0x00#8, 0xFD#8, 0x03#8, 0x00#8, 0x01#8, 0x21#8, 0x10#8, 0xDD#8, 0x00#8] =
      ([⟨0x01#8, []⟩], []) := by decide +kernel

theorem test_scan_V_S16 :
    scan crcTable [0x12#8, 0xFD#8, 0x01#8, 0x00#8, 0xFD#8, 0x04#8, 0x00#8, 0x78#8, 0x01#8, 0xD1#8, 0x91#8, 0xDD#8, 0xFD#8, 0x00#8, 0x00#8, 0x33#8] =
      ([⟨0x78#8, [0x01#8]⟩], []) := by decide +kernel

theorem test_scan_V_S17 :
    scan crcTable [0xFD#8, 0x10#8, 0x00#8, 0xFD#8, 0x04#8, 0x00#8, 0x78#8, 0x01#8, 0xD1#8, 0x91#8, 0xDD#8] =
      ([], [0xFD#8, 0x10#8, 0x00#8, 0xFD#8, 0x04#8, 0x00#8, 0x78#8, 0x01#8, 0xD1#8, 0x91#8, 0xDD#8]) := by decide +kernel

theorem test_scan_V_S11_reserved_nibble :
    scan crcTable [0xFD#8, 0x04#8, 0xF0#8, 0x78#8, 0x01#8, 0xD1#8, 0x91#8, 0xDD#8] =
      ([⟨0x78#8, [0x01#8]⟩], []) := by decide +kernel

/-! ## One step each (V-R, V-D, V-C, V-N) -/

theorem test_connect_V_N1 :
    after (.connect) (off 7#32) (fun t => (t.connected, t.status, t.answers.map resultWord, t.events)) =
      some (true, unknownStatus, [0x00000000#32], []) := by decide +kernel

theorem test_connect_V_N2 :
    after (.connect) (on 7#32) (fun t => (t.connected, t.answers.map resultWord)) =
      some (true, [0x00000005#32]) := by decide +kernel

theorem test_disconnect_V_N4 :
    after (.disconnect) (((on 0#32).setSlot .ambientLevel (.sent 700#32 4#16)).setStatus { unknownStatus with ambientLevel := 3#16 }) (fun t => (t.connected, t.slot .ambientLevel, t.events, t.answers)) =
      some (false, .idle, [.completion .ambientLevel 4#16 .cancelled, .statusChanged unknownStatus], [.ok]) := by decide +kernel

theorem test_disconnect_V_N5 :
    after (.disconnect) ((on 0#32).setRxbuf .data [0xFD#8, 0x04#8]) (fun t => (t.rxbuf .data, t.events, t.answers)) =
      some ([], [], [.ok]) := by decide +kernel

theorem test_send_V_N7 :
    after (.send .data 0x61#8 [] true) (on 0#32) (fun t => (t.events, t.answers)) =
      some ([.txFrame .data [0xFD#8, 0x03#8, 0x00#8, 0x61#8, 0x87#8, 0x7C#8, 0xDD#8]], [.ok]) := by decide +kernel

theorem test_send_V_N10 :
    after (.send .data 0x55#8 [] false) (on 0#32) (fun t => (t.events, t.answers.map resultWord)) =
      some ([.txFrame .data [0xFD#8, 0x03#8, 0x00#8, 0x55#8, 0x50#8, 0x0A#8, 0xDD#8]], [0x00000002#32]) := by decide +kernel

theorem test_issue_V_C1 :
    after (.issue .noise 0#32 [0x01#8] true) (on 100#32) (fun t => (t.slot .noise, t.seq, t.events, t.answers)) =
      some (.sent 5100#32 0#16, 1#16, [.txFrame .data [0xFD#8, 0x04#8, 0x00#8, 0x78#8, 0x01#8, 0xD1#8, 0x91#8, 0xDD#8]], [.registered 0#16]) := by decide +kernel

theorem test_issue_V_C5 :
    after (.issue .ambientLevel 0#32 [0x03#8] false) (((on 0#32).setSlot .ambientLevel (.sent 700#32 4#16)).setSeq 5#16) (fun t => (t.slot .ambientLevel, t.seq, t.events, t.answers)) =
      some (.idle, 5#16, [.completion .ambientLevel 4#16 .superseded, .txFrame .data [0xFD#8, 0x04#8, 0x00#8, 0x84#8, 0x03#8, 0x3F#8, 0xE7#8, 0xDD#8]], [.writeError]) := by decide +kernel

theorem test_snapshot_V_N11 :
    after .snapshot (off 0x1234#32) (fun t => t.answers.map answerBytes) =
      some [[0x00#8, 0x00#8, 0x00#8, 0x00#8, 0xFF#8, 0xFF#8, 0xFF#8, 0xFF#8, 0xFF#8, 0xFF#8, 0xFF#8, 0xFF#8, 0x02#8, 0x04#8, 0x00#8, 0x00#8] ++
        [0x00#8, 0x00#8, 0x00#8, 0x00#8, 0x34#8, 0x12#8, 0x00#8, 0x00#8, 0x00#8, 0x00#8]] := by decide +kernel

theorem test_illegalOp0_R315 :
    after (.illegalOp0 0x0FFFFFF#28) (on 0#32) (fun t => (t.answers.map resultWord, t.events)) =
      some ([0x00000004#32], []) := by decide +kernel

theorem test_illegalOp6_R315 :
    after (.illegalOp6 0x0FFFFFF#28) (on 0#32) (fun t => (t.answers.map resultWord, t.events)) =
      some ([0x00000004#32], []) := by decide +kernel

theorem test_illegalOp7_R315 :
    after (.illegalOp7 0x0FFFFFF#28) (on 0#32) (fun t => (t.answers.map resultWord, t.events)) =
      some ([0x00000004#32], []) := by decide +kernel

theorem test_illegalOp8_R315 :
    after (.illegalOp8 0x0FFFFFF#28) (on 0#32) (fun t => (t.answers.map resultWord, t.events)) =
      some ([0x00000004#32], []) := by decide +kernel

theorem test_illegalOp9_R315 :
    after (.illegalOp9 0x0FFFFFF#28) (on 0#32) (fun t => (t.answers.map resultWord, t.events)) =
      some ([0x00000004#32], []) := by decide +kernel

theorem test_illegalOpA_R315 :
    after (.illegalOpA 0x0FFFFFF#28) (on 0#32) (fun t => (t.answers.map resultWord, t.events)) =
      some ([0x00000004#32], []) := by decide +kernel

theorem test_illegalOpB_R315 :
    after (.illegalOpB 0x0FFFFFF#28) (on 0#32) (fun t => (t.answers.map resultWord, t.events)) =
      some ([0x00000004#32], []) := by decide +kernel

theorem test_illegalOpC_R315 :
    after (.illegalOpC 0x0FFFFFF#28) (on 0#32) (fun t => (t.answers.map resultWord, t.events)) =
      some ([0x00000004#32], []) := by decide +kernel

theorem test_illegalOpD_R315 :
    after (.illegalOpD 0x0FFFFFF#28) (on 0#32) (fun t => (t.answers.map resultWord, t.events)) =
      some ([0x00000004#32], []) := by decide +kernel

theorem test_illegalOpE_R315 :
    after (.illegalOpE 0x0FFFFFF#28) (on 0#32) (fun t => (t.answers.map resultWord, t.events)) =
      some ([0x00000004#32], []) := by decide +kernel

theorem test_illegalOpF_R315 :
    after (.illegalOpF 0x0FFFFFF#28) (on 0#32) (fun t => (t.answers.map resultWord, t.events)) =
      some ([0x00000004#32], []) := by decide +kernel

theorem test_rx_V_R7 :
    after (.rx .data ([0xFD#8, 0x05#8, 0x00#8, 0x42#8, 0x78#8, 0x01#8, 0x1C#8, 0xE2#8, 0xDD#8] ++ [0xFD#8, 0x05#8, 0x00#8, 0x42#8, 0x78#8, 0x02#8, 0x7F#8, 0xD2#8, 0xDD#8])) ((on 0#32).setSlot .noise (.sent 9#32 0#16)) (fun t => (t.slot .noise, t.status.noiseControlMode, t.events.map eventBytes)) =
      some (.idle, .ambient,
        [[0x02#8, 0x00#8, 0x00#8, 0x00#8, 0xFF#8, 0xFF#8, 0xFF#8, 0xFF#8, 0xFF#8, 0xFF#8, 0xFF#8, 0xFF#8, 0x02#8, 0x01#8, 0x00#8, 0x00#8], [0x01#8, 0x01#8, 0x00#8, 0x00#8, 0xFF#8, 0xFF#8, 0xFF#8, 0xFF#8, 0xFF#8, 0xFF#8, 0xFF#8, 0xFF#8, 0x02#8, 0x01#8, 0x00#8, 0x00#8],
          [0x02#8, 0x00#8, 0x00#8, 0x00#8, 0xFF#8, 0xFF#8, 0xFF#8, 0xFF#8, 0xFF#8, 0xFF#8, 0xFF#8, 0xFF#8, 0x02#8, 0x02#8, 0x00#8, 0x00#8]]) := by decide +kernel

theorem test_rx_V_R3 :
    after (.rx .cmd [0xFD#8, 0x04#8, 0x00#8, 0x01#8]) (on 0#32) (fun t => (t.rxbuf .cmd, t.events)) =
      some ([0xFD#8, 0x04#8, 0x00#8, 0x01#8], []) := by decide +kernel

theorem test_rxErr_V_R5 :
    after (.rxErr .cmd) (on 0#32) (fun t => t.events.map eventBytes) =
      some ([[0x13#8, 0x00#8, 0x00#8, 0x00#8]]) := by decide +kernel

theorem test_tick_V_C11_C12 :
    after (.tick) (((on 0#32).setSlot .noise (.sent 1#32 0#16)).setSlot .ambientLevel (.sent 1#32 5#16)) (fun t => (t.now, t.slot .noise, t.slot .ambientLevel, t.events)) =
      some (1#32, .idle, .idle, [.completion .noise 0#16 .timeout, .completion .ambientLevel 5#16 .timeout]) := by decide +kernel

theorem test_tick_V_C10 :
    after (.tick) ((on 0xFFFFFFFF#32).setSlot .noise (.sent 1#32 0#16)) (fun t => (t.now, t.slot .noise, t.events)) =
      some (0#32, .sent 1#32 0#16, []) := by decide +kernel

theorem test_rxStatus_V_D3 :
    after (.rxStatus [0x00#8, 0x00#8, 0x64#8, 0x63#8, 0x00#8, 0x00#8, 0x00#8, 0x02#8, 0x00#8]) ((on 0#32).setSlot .noise (.sent 9#32 0#16)) (fun t => (statusRecord t.status, t.events.map eventBytes)) =
      some ([0x64#8, 0x00#8, 0x63#8, 0x00#8, 0xFF#8, 0xFF#8, 0xFF#8, 0xFF#8, 0x00#8, 0x02#8, 0x00#8, 0x00#8],
        [[0x02#8, 0x00#8, 0x00#8, 0x00#8, 0x64#8, 0x00#8, 0x63#8, 0x00#8, 0xFF#8, 0xFF#8, 0xFF#8, 0xFF#8, 0x00#8, 0x02#8, 0x00#8, 0x00#8], [0x01#8, 0x02#8, 0x00#8, 0x00#8, 0x64#8, 0x00#8, 0x63#8, 0x00#8, 0xFF#8, 0xFF#8, 0xFF#8, 0xFF#8, 0x00#8, 0x02#8, 0x00#8, 0x00#8]]) := by decide +kernel

theorem test_rxStatus_V_D6 :
    after (.rxStatus [0x00#8, 0x00#8, 0x50#8, 0x4B#8, 0x00#8, 0x00#8, 0x01#8, 0x02#8]) (on 0#32) (fun t => (t.status, t.events)) =
      some (unknownStatus, []) := by decide +kernel

theorem test_rxAck_V_D13 :
    after (.rxAck [0x83#8, 0xC8#8]) (on 0#32) (fun t => t.events.map eventBytes) =
      some ([[0x02#8, 0x00#8, 0x00#8, 0x00#8, 0xFF#8, 0xFF#8, 0xFF#8, 0xFF#8, 0xFF#8, 0xFF#8, 0xC8#8, 0x00#8, 0x02#8, 0x04#8, 0x00#8, 0x00#8]]) := by decide +kernel

theorem test_rxAck_V_D8 :
    after (.rxAck [0x78#8, 0x01#8]) (((on 0#32).setStatus { unknownStatus with noiseControlMode := .anc }).setSlot .noise (.sent 9#32 6#16)) (fun t => t.events) =
      some ([.completion .noise 6#16 (.success 0x01#8 { unknownStatus with noiseControlMode := .anc })]) := by decide +kernel

theorem test_rxTestResult_V_D14 :
    after (.rxTestResult [0x01#8, 0x07#8]) ((on 0#32).setSlot .testConn (.sent 9#32 2#16)) (fun t => (t.slot .testConn, t.events)) =
      some (.idle, [.completion .testConn 2#16 (.success 0x01#8 unknownStatus)]) := by decide +kernel

theorem test_rxOther_V_D18 :
    after (.rxOther .cmd 0x42#8 [0x78#8, 0x01#8]) ((on 0#32).setSlot .noise (.sent 9#32 2#16)) (fun t => (t.slot .noise, t.status, t.events)) =
      some (.sent 9#32 2#16, unknownStatus, []) := by decide +kernel

theorem test_txNoise :
    after (.txNoise 3#32 [0x01#8] true) (on 0x1000#32) (fun t => (t.slot .noise, t.events)) =
      some (.sent 0x1003#32 0#16, [.txFrame .data [0xFD#8, 0x04#8, 0x00#8, 0x78#8, 0x01#8, 0xD1#8, 0x91#8, 0xDD#8]]) := by decide +kernel

theorem test_txAncLevel :
    after (.txAncLevel 3#32 [0x02#8] true) (on 0x1000#32) (fun t => (t.slot .ancLevel, t.events)) =
      some (.sent 0x1003#32 0#16, [.txFrame .data [0xFD#8, 0x04#8, 0x00#8, 0x83#8, 0x02#8, 0x89#8, 0x6E#8, 0xDD#8]]) := by decide +kernel

theorem test_txAmbientLevel :
    after (.txAmbientLevel 3#32 [0x03#8] true) (on 0x1000#32) (fun t => (t.slot .ambientLevel, t.events)) =
      some (.sent 0x1003#32 0#16, [.txFrame .data [0xFD#8, 0x04#8, 0x00#8, 0x84#8, 0x03#8, 0x3F#8, 0xE7#8, 0xDD#8]]) := by decide +kernel

theorem test_txTestConn :
    after (.txTestConn 3#32 [] true) (on 0x1000#32) (fun t => (t.slot .testConn, t.events)) =
      some (.sent 0x1003#32 0#16, [.txFrame .cmd [0xFD#8, 0x03#8, 0x00#8, 0x01#8, 0x21#8, 0x10#8, 0xDD#8]]) := by decide +kernel

theorem test_setNoise :
    after (.setNoise 0x01#8 3#32 true) (on 0x1000#32) (fun t => (t.slot .noise, t.events)) =
      some (.sent 0x1003#32 0#16, [.txFrame .data [0xFD#8, 0x04#8, 0x00#8, 0x78#8, 0x01#8, 0xD1#8, 0x91#8, 0xDD#8]]) := by decide +kernel

theorem test_setAnc :
    after (.setAnc 0x02#8 3#32 true) (on 0x1000#32) (fun t => (t.slot .ancLevel, t.events)) =
      some (.sent 0x1003#32 0#16, [.txFrame .data [0xFD#8, 0x04#8, 0x00#8, 0x83#8, 0x02#8, 0x89#8, 0x6E#8, 0xDD#8]]) := by decide +kernel

theorem test_setAmbient :
    after (.setAmbient 0x03#8 3#32 true) (on 0x1000#32) (fun t => (t.slot .ambientLevel, t.events)) =
      some (.sent 0x1003#32 0#16, [.txFrame .data [0xFD#8, 0x04#8, 0x00#8, 0x84#8, 0x03#8, 0x3F#8, 0xE7#8, 0xDD#8]]) := by decide +kernel

theorem test_testConn :
    after (.testConn 3#32 true) (on 0x1000#32) (fun t => (t.slot .testConn, t.events)) =
      some (.sent 0x1003#32 0#16, [.txFrame .cmd [0xFD#8, 0x03#8, 0x00#8, 0x01#8, 0x21#8, 0x10#8, 0xDD#8]]) := by decide +kernel

theorem test_txStatusRequest :
    after (.txStatusRequest [] true) (on 0#32) (fun t => (t.events, t.answers, t.seq)) =
      some ([.txFrame .data [0xFD#8, 0x03#8, 0x00#8, 0x61#8, 0x87#8, 0x7C#8, 0xDD#8]], [.ok], 0#16) := by decide +kernel

theorem test_reqStatus :
    after (.reqStatus true) (on 0#32) (fun t => (t.events, t.answers, t.seq)) =
      some ([.txFrame .data [0xFD#8, 0x03#8, 0x00#8, 0x61#8, 0x87#8, 0x7C#8, 0xDD#8]], [.ok], 0#16) := by decide +kernel

theorem test_ticks_V_C9_to_C11 :
    after (.ticks 3) ((on 0xFFFFFFFE#32).setSlot .noise (.sent 1#32 0#16)) (fun t => (t.now, t.slot .noise, t.events)) =
      some (1#32, .idle, [.completion .noise 0#16 .timeout]) := by decide +kernel

/-- A step takes the input at the head and answers an illegal command (V-H9). -/
theorem test_step_illegal :
    (result (step (offered (on 0#32) .host [0x81#8, 0x00#8, 0x00#8, 0x00#8]))).map (fun t => (t.inputs, t.answers)) = some ([], [.illegal]) := by
  decide +kernel

theorem test_step_fetch_word :
    (result (step (State.withFetchWord State.reset 32 0x00000001))).map (fun t => (t.connected, t.answers)) = some (true, [.ok]) := by
  decide +kernel

theorem test_reset_power_on :
    State.reset.connected = false ∧ State.reset.seq = 0#16 ∧ statusRecord State.reset.status = [0xFF#8, 0xFF#8, 0xFF#8, 0xFF#8, 0xFF#8, 0xFF#8, 0xFF#8, 0xFF#8, 0x02#8, 0x04#8, 0x00#8, 0x00#8] := by
  decide +kernel

theorem test_status_register : statusRegister { unknownStatus with ancLevel := 200#16 } = 0x0000040200C8FFFFFFFFFFFF#96 := by decide

theorem test_slot_register : slotRegister (.sent 0x80000001#32 0x8001#16) = 0x1000000030003#49 := by decide
/-! ## Witnesses: for each statement with hypotheses, states and operands that meet them, at the bounds of each clause -/

/-- A next state with a property, from an evaluation. -/
theorem exists_next {o : Host.Outcome State Fault Refusal} (P : State → Prop) [DecidablePred P]
    (h : (result o).map (fun t => decide (P t)) = some true) : ∃ t, o = .next t ∧ P t := by
  cases o with
  | next t => exact ⟨t, rfl, by simpa [result] using h⟩
  | fault r => cases r
  | refused r => simp [result] at h

/-- A TICK, an ISSUE of K0 and a RX are about to come. -/
def ticking (s : State) : State := offered s .timer [0x0A#8, 0x00#8, 0x00#8, 0x00#8]

def issuing (s : State) : State := offered s .host [0x04#8, 0#8, 0#8, 0#8, 3#8, 0#8, 0#8, 0#8]

/-- K0 is live with the deadline `d` and the tag 7, and its ISSUE was answered. -/
def waiting (now d : Word) : State := ((on now).setSlot .noise (.sent d 7#16)).answer (.registered 7#16)

/-- The DATA buffer holds the longest partial frame, 4098 bytes; the CMD buffer a start marker. -/
def retaining : State := ((on 0#32).setRxbuf .data (0xFD#8 :: 0xFF#8 :: 0x0F#8 :: zeros 4095)).setRxbuf .cmd [0xFD#8]

theorem test_witness_EncodeThenDecodeGivesExpansion :
    Instr.wf (.rxOther .cmd 0x42#8 (zeros 4092)) = true ∧
      Instr.wf (.issue .testConn 0xFFFFFFFF#32 (zeros 65535) true) = true ∧ Instr.wf (.ticks 0) = true := by
  simp [Instr.wf, zeros_length, plenMax, pMax, listed]

theorem test_witness_DecodedBytesEncodeBack :
    decode ⟨.host, [0x13#8, 0x78#8, 0x01#8, 0x00#8, 0xAB#8], false⟩ = .instr (.send .cmd 0x78#8 [0xAB#8] false) ∧
      decode ⟨.rxFrame .cmd, [0x42#8], true⟩ = .instr (.rxOther .cmd 0x42#8 []) ∧
      decode ⟨.txFrame .data, [0x61#8, 0x05#8], true⟩ = .instr (.txStatusRequest [0x05#8] true) ∧
      decode ⟨.transport, [0x18#8, 0x00#8, 0x00#8, 0x00#8], true⟩ = .instr (.rx .cmd []) ∧
      decode ⟨.timer, [0x0A#8, 0x00#8, 0x00#8, 0x00#8], false⟩ = .instr .tick := by
  decide

/-- The words of R315's cases: reserved OPs at their bounds, bit 7, each unused field, and the least illegal TIMEOUT. -/
theorem test_witness_IllegalHostCommandsAreAnswered_host :
    (offered (on 0#32) .host (wordBytes 0x00000006#32 ++ [])).inputs = [⟨.host, wordBytes 0x00000006#32 ++ [], true⟩] ∧
      (0x00000000#32).extractLsb' 0 4 = 0#4 ∧ 6#4 ≤ (0x00000006#32).extractLsb' 0 4 ∧
      6#4 ≤ (0x0000000F#32).extractLsb' 0 4 ∧ (0x00000081#32).extractLsb' 7 1 = 1#1 ∧
      ((0x00000011#32).extractLsb' 0 4 = 1#4 ∧ (0x00000011#32).extractLsb' 4 28 ≠ 0#28) ∧
      ((0x80000002#32).extractLsb' 0 4 = 2#4 ∧ (0x80000002#32).extractLsb' 4 28 ≠ 0#28) ∧
      ((0x00000105#32).extractLsb' 0 4 = 5#4 ∧ (0x00000105#32).extractLsb' 4 28 ≠ 0#28) ∧
      ((0x00000023#32).extractLsb' 0 4 = 3#4 ∧ (0x00000023#32).extractLsb' 5 2 ≠ 0#2) ∧
      ((0x00000014#32).extractLsb' 0 4 = 4#4 ∧ (0x00000014#32).extractLsb' 4 1 ≠ 0#1) ∧
      ((0x00006104#32).extractLsb' 0 4 = 4#4 ∧ (0x00006104#32).extractLsb' 8 8 ≠ 0#8) ∧
      ((0x00000024#32).extractLsb' 0 4 = 4#4 ∧ ([] : List Byte).length = ((0x00000024#32).extractLsb' 16 16).toNat ∧
        0x80000000 ≤ (0x80000000#32).toNat) := by
  decide

/-- Wrong OPs beside the ports' own, and each unused field of RX, RX_ERR and TICK. -/
theorem test_witness_IllegalHostCommandsAreAnswered_environment :
    (offered (on 0#32) .transport (wordBytes 0x00000007#32 ++ [])).inputs =
        [⟨.transport, wordBytes 0x00000007#32 ++ [], true⟩] ∧
      ((0x00000007#32).extractLsb' 0 4 ≠ 8#4 ∧ (0x00000007#32).extractLsb' 0 4 ≠ 9#4) ∧
      (0x00000028#32).extractLsb' 5 2 ≠ 0#2 ∧ (0x00000088#32).extractLsb' 7 1 = 1#1 ∧ (0x00000109#32).extractLsb' 8 8 ≠ 0#8 ∧
      ((0x00010009#32).extractLsb' 0 4 = 9#4 ∧ (0x00010009#32).extractLsb' 16 16 ≠ 0#16) ∧
      (offered (on 0#32) .timer (wordBytes 0x00000009#32 ++ [])).inputs = [⟨.timer, wordBytes 0x00000009#32 ++ [], true⟩] ∧
      (0x00000009#32).extractLsb' 0 4 ≠ 10#4 ∧ (0x0000FF0A#32).extractLsb' 4 28 ≠ 0#28 := by
  decide

theorem test_witness_StepRunsTheDecodedInstruction :
    (ticking (on 0#32)).inputs = tickInput :: [] ∧ decode tickInput = .instr .tick := by
  decide

/-- A step that answers a next state; for the statements whose hypothesis is that one does. -/
theorem test_witness_StepTakesExactlyOneInput : ∃ t, step (issuing (on 0#32)) = .next t ∧ t.inputs = [] :=
  exists_next (fun t => t.inputs = []) (by decide +kernel)

theorem test_witness_StepNeverStopsOnWholeTransactions :
    ∀ inp rest, (ticking (on 0#32)).inputs = inp :: rest → decode inp ≠ .malformed := by
  intro inp rest h
  cases h
  decide

/-- The offset of the mode byte at its bound, and a payload of the least length that contains it. -/
theorem test_witness_ParameterSetsOutsideTheConstraintAreRefused :
    (∃ c, Config.ofParameters { parameters with offNc := 8 } = some c) ∧ config.statusMinLen < 9 := by
  exact ⟨⟨{ config with offNc := 8, statusSlack := 0 }, rfl⟩, by decide⟩

theorem test_witness_ConfigurationNeverChanges : ∃ t, step (issuing (on 0#32)) = .next t ∧ t.seq = 1#16 :=
  exists_next (fun t => t.seq = 1#16) (by decide +kernel)

theorem retaining_retained : BuffersRetained retaining := by
  intro ch
  cases ch with
  | data =>
    refine ⟨rfl, ?_, ?_⟩
    · decide
    · show (0xFD#8 :: 0xFF#8 :: 0x0F#8 :: zeros 4095).length < lengthOf 0xFF#8 0x0F#8 + 4
      simp only [List.length_cons, zeros_length]
      decide
  | cmd => exact ⟨rfl, trivial⟩

theorem test_witness_ReceiveBuffersStayPartialFrames :
    BuffersRetained (ticking retaining) ∧ (∃ t, step (ticking retaining) = .next t ∧ t.now = 1#32) ∧
      Retained (retaining.rxbuf .data) :=
  ⟨fun ch => by cases ch; exacts [retaining_retained .data, retaining_retained .cmd], exists_next (fun t => t.now = 1#32) (by decide +kernel),
    retaining_retained .data⟩

theorem off_quiet (n : Word) : QuietWhenDisconnected (off n) :=
  fun _ => ⟨fun ch => by cases ch <;> rfl, fun k => by cases k <;> rfl, rfl⟩

theorem connected_quiet {s : State} (h : s.connected = true) : QuietWhenDisconnected s := by
  intro hf
  rw [h] at hf
  cases hf

theorem test_witness_DisconnectedBlockStaysQuiet :
    QuietWhenDisconnected (ticking (off 0#32)) ∧ (∃ t, step (ticking (off 0#32)) = .next t ∧ t.connected = false) ∧
      QuietWhenDisconnected (waiting 0#32 5#32) ∧
      (∃ t, exec .disconnect (waiting 0#32 5#32) = .next t ∧ t.connected = false) :=
  ⟨fun _ => ⟨fun ch => by cases ch <;> rfl, fun k => by cases k <;> rfl, rfl⟩, exists_next (fun t => t.connected = false) (by decide +kernel),
    connected_quiet rfl, exists_next (fun t => t.connected = false) (by decide +kernel)⟩

theorem test_witness_StatusValuesStayLegal :
    StatusLegal { unknownStatus with ancLevel := 255#16, batteryLeft := 0#16 } ∧
      ∃ t, step (ticking ((on 0#32).setStatus { unknownStatus with ancLevel := 255#16, batteryLeft := 0#16 })) = .next t ∧
        t.now = 1#32 :=
  ⟨by unfold StatusLegal LevelLegal; decide, exists_next (fun t => t.now = 1#32) (by decide +kernel)⟩

theorem waiting_ahead {now d : Word} (h : 1 ≤ (d - now).toNat ∧ (d - now).toNat ≤ 0x7FFFFFFF) :
    DeadlinesAhead (waiting now d) := by
  intro k deadline tag hs
  cases k
  · cases hs; exact h
  all_goals cases hs

/-- The deadline 1 tick and `T_MAX` ticks ahead, across the wrap of the timer. -/
theorem test_witness_NoLiveWaitIsOverdue :
    DeadlinesAhead (waiting 0xFFFFFFFF#32 0#32) ∧ DeadlinesAhead (waiting 0xFFFFFFFF#32 0x7FFFFFFE#32) ∧
      ∃ t, step (ticking (waiting 0xFFFFFFFF#32 0#32)) = .next t ∧ t.slot .noise = .idle :=
  ⟨waiting_ahead (by decide), waiting_ahead (by decide), exists_next (fun t => t.slot .noise = .idle) (by decide +kernel)⟩

theorem test_witness_EveryRegisteredWaitHasOneOutcome :
    OutcomesBalance (issuing (waiting 0#32 5#32)) ∧
      ∃ t, step (issuing (waiting 0#32 5#32)) = .next t ∧ completionsWith 7#16 t.events = 1 :=
  ⟨fun g => by
      show (if 7#16 = g then 1 else 0) + 0 = 0 + ((if 7#16 = g then 1 else 0) + 0 + 0 + 0)
      omega,
    exists_next (fun t => completionsWith 7#16 t.events = 1) (by decide +kernel)⟩

/-- The transport's answer to an ISSUE of K0 is that the write failed. -/
def failing (s : State) : State := s.setInputs [⟨.host, [0x04#8, 0#8, 0#8, 0#8, 3#8, 0#8, 0#8, 0#8], false⟩]

/-- A K0 wait is SUCCESS by the ACK of V-E10. -/
def acknowledged (s : State) : State :=
  offered s .transport [0x08#8, 0x00#8, 0x09#8, 0x00#8, 0xFD#8, 0x05#8, 0x00#8, 0x42#8, 0x78#8, 0x01#8, 0x1C#8, 0xE2#8, 0xDD#8]

/-- Each row of the state machine: Idle stays, Idle to Sent, Sent stays, Sent to Idle by each of its four events, Sent replaced. -/
theorem test_witness_SlotsMoveOnlyAsTheStateMachineSays :
    (∃ t, step (ticking (on 0#32)) = .next t ∧ t.slot .noise = .idle) ∧
      (∃ t, step (issuing (on 0#32)) = .next t ∧ t.slot .noise = .sent 3#32 0#16) ∧
      (∃ t, step (ticking (waiting 0#32 2#32)) = .next t ∧ t.slot .noise = .sent 2#32 7#16) ∧
      (∃ t, step (ticking (waiting 0#32 1#32)) = .next t ∧ completionsOf .noise t.events = [(7#16, .timeout)]) ∧
      (∃ t, step (acknowledged (waiting 0#32 1#32)) = .next t ∧
        completionsOf .noise t.events = [(7#16, .success 0x01#8 { unknownStatus with noiseControlMode := .anc })]) ∧
      (∃ t, step (failing (waiting 0#32 1#32)) = .next t ∧ t.slot .noise = .idle ∧
        completionsOf .noise t.events = [(7#16, .superseded)]) ∧
      (∃ t, step (offered (waiting 0#32 1#32) .host [0x02#8, 0#8, 0#8, 0#8]) = .next t ∧
        completionsOf .noise t.events = [(7#16, .cancelled)]) ∧
      (∃ t, step (issuing (waiting 0#32 2#32)) = .next t ∧ t.slot .noise = .sent 3#32 0#16) :=
  ⟨exists_next (fun t => t.slot .noise = .idle) (by decide +kernel),
    exists_next (fun t => t.slot .noise = .sent 3#32 0#16) (by decide +kernel),
    exists_next (fun t => t.slot .noise = .sent 2#32 7#16) (by decide +kernel),
    exists_next (fun t => completionsOf .noise t.events = [(7#16, .timeout)]) (by decide +kernel),
    exists_next (fun t => completionsOf .noise t.events =
      [(7#16, .success 0x01#8 { unknownStatus with noiseControlMode := .anc })]) (by decide +kernel),
    exists_next (fun t => t.slot .noise = .idle ∧ completionsOf .noise t.events = [(7#16, .superseded)]) (by decide +kernel),
    exists_next (fun t => completionsOf .noise t.events = [(7#16, .cancelled)]) (by decide +kernel),
    exists_next (fun t => t.slot .noise = .sent 3#32 0#16) (by decide +kernel)⟩

/-- Each of the four reasons ends a wait: the deadline, a frame (the ACK of V-E10 on the transport port), a newer ISSUE, DISCONNECT. -/
theorem test_witness_WaitsEndOnlyForTheFourReasons :
    (∃ t, step (ticking (waiting 0#32 1#32)) = .next t ∧ t.slot .noise ≠ .sent 1#32 7#16) ∧
      (∃ t, step (acknowledged (waiting 0#32 1#32)) = .next t ∧ t.slot .noise ≠ .sent 1#32 7#16) ∧
      (∃ t, step (issuing (waiting 0#32 1#32)) = .next t ∧ t.slot .noise ≠ .sent 1#32 7#16) ∧
      (∃ t, step (offered (waiting 0#32 1#32) .host [0x02#8, 0#8, 0#8, 0#8]) = .next t ∧
        t.slot .noise ≠ .sent 1#32 7#16) ∧
      (waiting 0#32 1#32).slot .noise = .sent 1#32 7#16 :=
  ⟨exists_next (fun t => t.slot .noise ≠ .sent 1#32 7#16) (by decide +kernel),
    exists_next (fun t => t.slot .noise ≠ .sent 1#32 7#16) (by decide +kernel),
    exists_next (fun t => t.slot .noise ≠ .sent 1#32 7#16) (by decide +kernel),
    exists_next (fun t => t.slot .noise ≠ .sent 1#32 7#16) (by decide +kernel), rfl⟩

/-- A step that registers, at the wrap of `seq` (V-C15), and one that does not. -/
theorem test_witness_TagsCountRegistrations :
    (∃ t, step (issuing ((on 0#32).setSeq 0xFFFF#16)) = .next t ∧ t.answers = [.registered 0xFFFF#16] ∧ t.seq = 0#16) ∧
      (∃ t, step (ticking ((on 0#32).setSeq 0xFFFF#16)) = .next t ∧ t.answers = [] ∧ t.seq = 0xFFFF#16) :=
  ⟨exists_next (fun t => t.answers = [.registered 0xFFFF#16] ∧ t.seq = 0#16) (by decide +kernel),
    exists_next (fun t => t.answers = [] ∧ t.seq = 0xFFFF#16) (by decide +kernel)⟩

theorem test_witness_OnlyTickMovesTheTimer :
    (∃ t, step (ticking (off 0xFFFFFFFF#32)) = .next t ∧ t.now = 0#32) ∧ decode tickInput = .instr .tick ∧
      (∃ t, step (issuing (on 0xFFFFFFFF#32)) = .next t ∧ t.now = 0xFFFFFFFF#32) ∧
      ∀ inp rest, (issuing (on 0xFFFFFFFF#32)).inputs = inp :: rest → decode inp ≠ .instr .tick :=
  ⟨exists_next (fun t => t.now = 0#32) (by decide +kernel), by decide,
    exists_next (fun t => t.now = 0xFFFFFFFF#32) (by decide +kernel), fun inp rest h => by cases h; decide⟩

theorem test_witness_NothingDependsOnTheInitialTimer :
    (∀ inp rest, (ticking (waiting 0#32 1#32)).inputs = inp :: rest → decode inp ≠ .instr .snapshot) ∧
      ∃ t, step (ticking (waiting 0#32 1#32)) = .next t ∧ t.slot .noise = .idle :=
  ⟨fun inp rest h => by cases h; decide, exists_next (fun t => t.slot .noise = .idle) (by decide +kernel)⟩

/-- A step that changes the status and one that does not. -/
theorem test_witness_StatusChangesAreReported :
    QuietWhenDisconnected (waiting 0#32 1#32) ∧
      (∃ t, step (offered (waiting 0#32 1#32) (.rxFrame .data) [0x42#8, 0x78#8, 0x01#8]) = .next t ∧
        (statusChanges t.events).getLast? = some { unknownStatus with noiseControlMode := .anc }) ∧
      (∃ t, step (ticking (waiting 0#32 1#32)) = .next t ∧ statusChanges t.events = []) :=
  ⟨connected_quiet rfl,
    exists_next (fun t => (statusChanges t.events).getLast? = some { unknownStatus with noiseControlMode := .anc })
      (by decide +kernel),
    exists_next (fun t => statusChanges t.events = []) (by decide +kernel)⟩

theorem test_witness_OnlyWholeFramesAreTransmitted :
    ∃ t, step (issuing (on 0#32)) = .next t ∧
      Event.txFrame .data (encodeFrame crcTable 0x78#8 []) ∈ t.events.drop (issuing (on 0#32)).events.length :=
  exists_next
    (fun t => Event.txFrame .data (encodeFrame crcTable 0x78#8 []) ∈ t.events.drop (issuing (on 0#32)).events.length)
    (by decide +kernel)

/-- The index the composition law uses is a table index, and V-K5, V-K9 for the corner cases. -/
theorem test_witness_CrcFoldsItsTable :
    (((0xFFFF#16 >>> 8).setWidth 8 : Byte) ^^^ 0x00#8).toNat < 256 ∧ crcTable[(0x78#8).toNat]? = some 0xFF9F#16 ∧
      crcTable[(((0xFF9F#16 >>> 8).setWidth 8 : Byte) ^^^ 0x01#8).toNat]? = some 0x0ED1#16 := by
  decide +kernel

/-- The bound of a payload, for the round trip and the wire format; and two frames of the extreme lengths. -/
theorem test_witness_EncodeWritesTheWireFormat_DecodeOfEncodeIsTheFrame_FramesBackToBackAreAllRecovered :
    (zeros 4092).length ≤ 4092 ∧
      ∀ f ∈ ([⟨0xFD#8, zeros 4092⟩, ⟨0x01#8, []⟩] : List Frame), f.payload.length ≤ 4092 := by
  simp [zeros_length]

/-- V-S22, and a frame cut after its first byte. -/
theorem test_witness_PartialDeliveryYieldsTheFrameOnce :
    encodeFrame crcTable 0x78#8 [0x01#8] = [0xFD#8, 0x04#8, 0x00#8, 0x78#8] ++ [0x01#8, 0xD1#8, 0x91#8, 0xDD#8] ∧
      encodeFrame crcTable 0x78#8 [0x01#8] = [0xFD#8] ++ [0x04#8, 0x00#8, 0x78#8, 0x01#8, 0xD1#8, 0x91#8, 0xDD#8] ∧
      [0x01#8].length ≤ 4092 := by
  decide +kernel

theorem test_witness_NoiseWithoutAStartMarkerIsDiscarded : ∀ x ∈ [0x00#8, 0x11#8, 0xDD#8], x ≠ 0xFD#8 := by decide

/-- Case a with one byte after the marker; case b one byte short of the span, for `L = 3` (V-E6) and with the reserved nibble set. -/
theorem test_witness_IncompleteCandidateStopsTheScan :
    [0x04#8].length < 2 ∧ 3 ≤ (0x03#8).toNat + 256 * ((0x00#8).toNat % 16) ∧
      [0x01#8, 0x21#8, 0x10#8].length + 3 < (0x03#8).toNat + 256 * ((0x00#8).toNat % 16) + 4 ∧
      [0x01#8, 0x21#8, 0x10#8].length + 3 < (0x03#8).toNat + 256 * ((0xF0#8).toNat % 16) + 4 := by
  decide

/-- V-S6 (`L = 2`), V-S8 (end marker), V-S9 (CRC). -/
theorem test_witness_AbandonedCandidateResyncsAtTheNextByte :
    Abandoned crcTable [0xFD#8, 0x02#8, 0x00#8] ∧
      Abandoned crcTable [0xFD#8, 0x04#8, 0x00#8, 0x78#8, 0x01#8, 0xD1#8, 0x91#8, 0xDC#8] ∧
      Abandoned crcTable [0xFD#8, 0x04#8, 0x00#8, 0x78#8, 0x01#8, 0xD1#8, 0x90#8, 0xDD#8] := by
  refine ⟨⟨_, _, _, _, rfl, .inl (by decide)⟩, ⟨_, _, _, _, rfl, .inr ⟨by decide, .inl (by decide)⟩⟩,
    ⟨_, _, _, _, rfl, .inr ⟨by decide, .inr ?_⟩⟩⟩
  intro cLo cHi hLo hHi
  cases hLo
  cases hHi
  decide +kernel

theorem test_witness_AlteredCrcFieldRejectsTheFrame :
    [0x01#8].length ≤ 4092 ∧ halfOf 0xD1#8 0x90#8 ≠ crc16 crcTable [0x78#8, 0x01#8] := by
  decide +kernel

/-- V-S16: the one `FD` of the noise is abandoned where it stands; the noise after the frame gives no frame. -/
theorem test_witness_ResyncFindsTheFrameInNoise :
    (∀ i, [0x12#8, 0xFD#8, 0x01#8, 0x00#8][i]? = some 0xFD#8 →
        Abandoned crcTable (([0x12#8, 0xFD#8, 0x01#8, 0x00#8] ++ encodeFrame crcTable 0x78#8 [0x01#8] ++
          [0xFD#8, 0x00#8, 0x00#8, 0x33#8]).drop i)) ∧
      (scan crcTable [0xFD#8, 0x00#8, 0x00#8, 0x33#8]).1 = [] := by
  constructor
  · intro i h
    match i with
    | 0 => simp at h
    | 1 => exact ⟨_, _, _, _, rfl, .inl (by decide)⟩
    | 2 => simp at h
    | 3 => simp at h
    | i + 4 => simp at h
  · decide +kernel

theorem retaining_length : (retaining.rxbuf .data).length = 4098 := by
  have h : retaining.rxbuf .data = 0xFD#8 :: 0xFF#8 :: 0x0F#8 :: zeros 4095 := rfl
  rw [h, List.length_cons, List.length_cons, List.length_cons, zeros_length]

/-- The bounds of an enabled chunk: 1 byte, and all of `CHUNK_MAX` and `RX_CAP`; 1 byte behind 4098 (V-R4). -/
theorem test_witness_ReceiveScansAndDispatches :
    (on 0#32).connected = true ∧ 1 ≤ [0x00#8].length ∧
      (zeros 4099).length ≤ min (on 0#32).config.chunkMax ((on 0#32).config.rxCap - ((on 0#32).rxbuf .data).length) ∧
      [0x00#8].length ≤ min retaining.config.chunkMax (retaining.config.rxCap - (retaining.rxbuf .data).length) := by
  refine ⟨rfl, by decide, ?_, ?_⟩
  · rw [zeros_length]
    decide
  · rw [retaining_length]
    decide

/-- V-R1; the empty chunk; one byte above `CHUNK_MAX`; two bytes behind 4098 (V-R4). -/
theorem test_witness_ReceiveNotEnabledChangesNothing :
    (off 0#32).connected = false ∧ ([] : List Byte).length = 0 ∧ (on 0#32).config.chunkMax < (zeros 4100).length ∧
      retaining.config.rxCap - (retaining.rxbuf .data).length < [0x00#8, 0x00#8].length := by
  refine ⟨rfl, rfl, ?_, ?_⟩
  · rw [zeros_length]
    decide
  · rw [retaining_length]
    decide

theorem test_witness_ReceiveTouchesOnlyItsOwnState : ∃ t, exec (.rx .cmd [0xFD#8]) (waiting 0#32 1#32) = .next t :=
  ⟨_, rfl⟩

theorem test_witness_ReceiveIsEnabledAgainAfterEveryReceive :
    retaining.connected = true ∧ BuffersRetained retaining ∧ ∃ t, exec (.rx .data [0x00#8]) retaining = .next t :=
  ⟨rfl, retaining_retained, _, rfl⟩

theorem test_witness_ChunkingIsUnobservable :
    rxEnabled (on 0#32) .data [0xFD#8] = true ∧
      (∃ t, exec (.rx .data [0xFD#8]) (on 0#32) = .next t ∧ rxEnabled t .data [0x00#8] = true) ∧
      rxEnabled (on 0#32) .data ([0xFD#8] ++ [0x00#8]) = true :=
  ⟨by decide +kernel, exists_next (fun t => rxEnabled t .data [0x00#8] = true) (by decide +kernel), by decide +kernel⟩

/-- Behind the longest partial frame; and where nothing is retained, with the shortest and the longest payload; the last wire byte. -/
theorem test_witness_ReceivedFrameRowsDeliverTheirFrame :
    retaining.connected = true ∧ BuffersRetained retaining ∧ (encodeFrame crcTable 0x01#8 [])[6]? = some 0xDD#8 ∧
      ∀ ch, FrameReceivable ch [] (on 0#32) ∧ FrameReceivable ch (zeros 4092) (on 0#32) := by
  refine ⟨rfl, retaining_retained, by decide +kernel, fun ch => ⟨⟨rfl, ?_, by decide⟩, ⟨rfl, ?_, ?_⟩⟩⟩
  · cases ch <;> rfl
  · cases ch <;> rfl
  · rw [zeros_length]

/-- Connected and disconnected states; for RX_ERR, CONNECT and DISCONNECT. -/
theorem test_witness_ReadErrorIsOnlyAnEvent_ConnectStartsUnknown_DisconnectStopsCancelsAndForgets :
    (waiting 0#32 1#32).connected = true ∧ (off 0#32).connected = false := by
  decide

/-- A payload of exactly STATUS_MIN_LEN (V-E20), and of one byte more (V-E17) with the bytes at its four offsets. -/
theorem test_witness_ExtendedStatusFrameUpdatesTheStatus :
    [0x00#8, 0x00#8, 0x50#8, 0x4B#8, 0x00#8, 0x00#8, 0x01#8, 0x02#8].length ≤ (on 0#32).config.statusMinLen ∧
      (on 0#32).config.statusMinLen < [0x00#8, 0x00#8, 0x50#8, 0x4B#8, 0x00#8, 0x00#8, 0x01#8, 0x02#8, 0x00#8].length ∧
      [0x00#8, 0x00#8, 0x50#8, 0x4B#8, 0x00#8, 0x00#8, 0x01#8, 0x02#8, 0x00#8][(on 0#32).config.offBattL]? = some 0x50#8 ∧
      [0x00#8, 0x00#8, 0x50#8, 0x4B#8, 0x00#8, 0x00#8, 0x01#8, 0x02#8, 0x00#8][(on 0#32).config.offBattR]? = some 0x4B#8 ∧
      [0x00#8, 0x00#8, 0x50#8, 0x4B#8, 0x00#8, 0x00#8, 0x01#8, 0x02#8, 0x00#8][(on 0#32).config.offWear]? = some 0x01#8 ∧
      [0x00#8, 0x00#8, 0x50#8, 0x4B#8, 0x00#8, 0x00#8, 0x01#8, 0x02#8, 0x00#8][(on 0#32).config.offNc]? = some 0x02#8 :=
  ⟨by decide, by decide, rfl, rfl, rfl, rfl⟩

/-- One byte (V-E21), and an unlisted target (V-E22); ids beside the listed ones, and listed ids on the wrong channel (V-D17, V-D18). -/
theorem test_witness_AcknowledgmentFrameUpdatesAndResolves_UnlistedMessagesAreIgnored :
    [0x78#8].length < 2 ∧ (0x99#8 ≠ 0x78#8 ∧ 0x99#8 ≠ 0x83#8 ∧ 0x99#8 ≠ 0x84#8) ∧
      (0x01#8 ≠ 0x61#8 ∧ 0x01#8 ≠ 0x42#8) ∧ 0x42#8 ≠ 0x01#8 := by
  decide

theorem test_witness_DisconnectLeavesNoWaitHanging :
    QuietWhenDisconnected (waiting 0#32 1#32) ∧ QuietWhenDisconnected (off 0#32) :=
  ⟨connected_quiet rfl, off_quiet 0#32⟩

/-- Both sides of the payload bound, both connection states. -/
theorem test_witness_SendTransmitsOneFrame :
    4092 < (zeros 4093).length ∧ (zeros 4092).length ≤ 4092 ∧ (off 0#32).connected = false ∧ (on 0#32).connected = true := by
  refine ⟨?_, ?_, rfl, rfl⟩ <;> simp [zeros_length]

/-- Both sides of the timeout bound and of the payload bound, both connection states. -/
theorem test_witness_IssueSupersedesSendsAndRegisters_KindsSendTheirCatalogueFrames :
    0x80000000 ≤ (0x80000000#32).toNat ∧ (0x7FFFFFFF#32).toNat ≤ 0x7FFFFFFF ∧ (0#32).toNat ≤ 0x7FFFFFFF ∧
      4092 < (zeros 4093).length ∧ (zeros 4092).length ≤ 4092 ∧ (off 0#32).connected = false ∧
      (waiting 0#32 1#32).connected = true := by
  refine ⟨by decide, by decide, by decide, ?_, ?_, rfl, rfl⟩ <;> simp [zeros_length]

/-- One tick and `T_MAX` ticks, from a timer that wraps. -/
theorem test_witness_WaitTimesOutOnExactlyItsLastTick :
    (waiting 0xFFFFFFFF#32 (0xFFFFFFFF#32 + 1#32)).slot .noise = .sent (0xFFFFFFFF#32 + 1#32) 7#16 ∧
      1 ≤ (1#32).toNat ∧ 0 < (1#32).toNat ∧
      (waiting 0xFFFFFFFF#32 (0xFFFFFFFF#32 + 0x7FFFFFFF#32)).slot .noise = .sent (0xFFFFFFFF#32 + 0x7FFFFFFF#32) 7#16 ∧
      (0x7FFFFFFF#32).toNat ≤ 0x7FFFFFFF ∧ 0x7FFFFFFE < (0x7FFFFFFF#32).toNat := by
  decide

theorem test_witness_TickStarIsThatManyTickInputs :
    ((on 0#32).setInputs [tickInput, tickInput]).inputs = List.replicate 2 tickInput ++ [] := by
  decide

/-- A kind's wait is live with the deadline 0, the next tick after 0xFFFFFFFF, and the tag 7. -/
def lastTick (k : Kind) : State := (on 0xFFFFFFFF#32).setSlot k (.sent 0#32 7#16)

/-- One frame brought, and it is the signal. -/
theorem resolved_of_one {s : State} {frames : List Frame} {f : Frame} {k : Kind} {v : Byte} (h : frames = [f])
    (hs : Signals s.config s.status f k v) : ResolvedBy s frames k v (dispatch (kindChannel k) s f).status :=
  ⟨[], f, [], h, rfl, hs, rfl⟩

/-- The signal of each kind, in a chunk of its own; for K0 both of its signals, the 0x61 with the mode byte last (V-E17). -/
theorem test_witness_FirstToOccurWins :
    (∀ k, (lastTick k).slot k = .sent 0#32 7#16 ∧ 0 ≤ (0xFFFFFFFF#32 + 1#32 - 0#32 : Word).toInt) ∧
      (∃ snap, ResolvedBy (lastTick .noise)
        (framesBrought (lastTick .noise) (.rx .data (encodeFrame crcTable 0x42#8 [0x78#8, 0x01#8]))) .noise 0x01#8 snap) ∧
      (∃ snap, ResolvedBy (lastTick .noise)
        (framesBrought (lastTick .noise)
          (.rxStatus [0x00#8, 0x00#8, 0x50#8, 0x4B#8, 0x00#8, 0x00#8, 0x01#8, 0x02#8, 0x00#8])) .noise 0x02#8 snap) ∧
      (∃ snap, ResolvedBy (lastTick .ancLevel)
        (framesBrought (lastTick .ancLevel) (.rx .data (encodeFrame crcTable 0x42#8 [0x83#8, 0x02#8]))) .ancLevel 0x02#8 snap) ∧
      (∃ snap, ResolvedBy (lastTick .ambientLevel)
        (framesBrought (lastTick .ambientLevel) (.rxAck [0x84#8, 0x03#8])) .ambientLevel 0x03#8 snap) ∧
      (∃ snap, ResolvedBy (lastTick .testConn)
        (framesBrought (lastTick .testConn) (.rx .cmd (encodeFrame crcTable 0x01#8 [0x00#8]))) .testConn 0x00#8 snap) ∧
      (0x7FFFFFFF#32).toNat ≤ 0x7FFFFFFF ∧ (1#32).toNat ≤ 0x7FFFFFFF ∧ (0#32).toNat ≤ 0x7FFFFFFF ∧
      (zeros 4092).length ≤ 4092 := by
  refine ⟨fun k => ⟨by cases k <;> rfl, by decide⟩, ⟨_, resolved_of_one (f := ⟨0x42#8, [0x78#8, 0x01#8]⟩) (by decide +kernel) (.inl ⟨rfl, _, rfl⟩)⟩,
    ⟨_, resolved_of_one (f := ⟨0x61#8, [0x00#8, 0x00#8, 0x50#8, 0x4B#8, 0x00#8, 0x00#8, 0x01#8, 0x02#8, 0x00#8]⟩) (by decide +kernel)
      (.inr ⟨rfl, by decide, rfl, by decide⟩)⟩,
    ⟨_, resolved_of_one (f := ⟨0x42#8, [0x83#8, 0x02#8]⟩) (by decide +kernel) ⟨rfl, _, rfl⟩⟩,
    ⟨_, resolved_of_one (f := ⟨0x42#8, [0x84#8, 0x03#8]⟩) (by decide +kernel) ⟨rfl, _, rfl⟩⟩,
    ⟨_, resolved_of_one (f := ⟨0x01#8, [0x00#8]⟩) (by decide +kernel) ⟨rfl, _, rfl⟩⟩, by decide, by decide, by decide, ?_⟩
  rw [zeros_length]

/-- A result that is no snapshot, the ends of the status record, and S7 against the example of R117. -/
theorem test_witness_RecordsAndResultWordsAreLaidOut :
    (∀ x, Answer.stateError ≠ .snapshot x) ∧ 0 < 12 ∧ 11 < 12 ∧
      statusRegister unknownStatus = 0x00000402FFFFFFFFFFFFFFFF#96 :=
  ⟨by simp, by decide, by decide, by decide⟩

end Sys2Proof.Tests
end

/-! # Scope (spec/00_scope.md): O9, O6, O7 -/

namespace Sys2Proof

/-! ## Parameter sets (R10, R11, R1103) -/

/-- The constraints as propositions, `SPAN_MAX` written out. -/
theorem Parameters.legal_iff (p : Parameters) :
    p.legal = true ↔
      max (max p.offBattL p.offBattR) (max p.offWear p.offNc) ≤ p.statusMinLen ∧ p.wearBit < 8 ∧ 4099 ≤ p.rxCap ∧
        1 ≤ p.chunkMax := by
  have hspan : spanMax = 4099 := rfl
  simp only [Parameters.legal, Bool.and_eq_true, decide_eq_true_eq, and_assoc, hspan]

theorem Config.exists_ofParameters_iff (p : Parameters) :
    (∃ c, Config.ofParameters p = some c) ↔ p.legal = true := by
  cases h : p.legal <;> simp [Config.ofParameters, h]

/-- Holding `STATUS_MIN_LEN`, `RX_CAP` and `CHUNK_MAX` as what they exceed their least legal value by loses nothing of a legal set. -/
theorem Config.ofParameters_values {p : Parameters} {c : Config} (h : Config.ofParameters p = some c) :
    c.crcTable = p.crcTable ∧ c.ncDecode = p.ncDecode ∧ c.statusMinLen = p.statusMinLen ∧ c.offBattL = p.offBattL ∧
      c.offBattR = p.offBattR ∧ c.offWear = p.offWear ∧ c.offNc = p.offNc ∧ c.wearBit.val = p.wearBit ∧
      c.rxCap = p.rxCap ∧ c.chunkMax = p.chunkMax := by
  have hlegal : p.legal = true := (Config.exists_ofParameters_iff p).1 ⟨c, h⟩
  obtain ⟨hoff, hwear, hcap, hchunk⟩ := p.legal_iff.1 hlegal
  simp only [Config.ofParameters, hlegal, if_true, Option.some.injEq] at h
  subst h
  refine ⟨rfl, rfl, ?statusMinLen, rfl, rfl, rfl, rfl, ?wearBit, ?rxCap, ?chunkMax⟩
  case statusMinLen => exact Nat.add_sub_of_le hoff
  case wearBit => exact Nat.mod_eq_of_lt hwear
  case rxCap => exact Nat.add_sub_of_le hcap
  case chunkMax => exact Nat.add_sub_of_le hchunk

end Sys2Proof

namespace Sys2Proof.Machine

/-- Settles O9: `Config.ofParameters` tests exactly the constraints, and every offset is at most `STATUS_MIN_LEN` by construction. -/
theorem parameterSetsOutsideTheConstraintAreRefused : Obligations.ParameterSetsOutsideTheConstraintAreRefused := by
  refine ⟨fun p => ?_, fun _ _ h => Config.ofParameters_values h, fun c n h => ?_⟩
  · exact (Config.exists_ofParameters_iff p).trans p.legal_iff
  · exact ⟨offset_lt h (offBattL_le c), offset_lt h (offBattR_le c), offset_lt h (offWear_le c),
      offset_lt h (offNc_le c)⟩

/-! ## A step and the instruction it runs (R8) -/

/-- A step is its first input, carried out in the state that waits for the others. -/
theorem step_of_inputs_cons {s : State} {inp : Input} {rest : List Input} (h : s.inputs = inp :: rest) :
    step s = stepInput inp (s.setInputs rest) := by
  simp [step, nextInput, h]

/-- Settles O6: a step is its first input carried out, and an input that decodes to an instruction is carried out by `exec`. -/
theorem stepRunsTheDecodedInstruction : Obligations.StepRunsTheDecodedInstruction := by
  intro s inp rest i hin hdec
  calc step s = stepInput inp (s.setInputs rest) := step_of_inputs_cons hin
    _ = exec i (s.setInputs rest) := stepInput_instr hdec _

/-! ## Outputs are only ever added to (R8, R213, R1007) -/

/-- From `s` to `t` no input was taken or added, and what `s` has put out stands unchanged before what was added. -/
structure OnlyAdds (s t : State) : Prop where
  inputs : t.inputs = s.inputs
  events : s.events <+: t.events
  answers : s.answers <+: t.answers

namespace OnlyAdds

variable {r s t : State}

protected theorem refl (s : State) : OnlyAdds s s := ⟨rfl, List.prefix_rfl, List.prefix_rfl⟩

/-- A change of other elements than the inputs and the outputs adds nothing. -/
theorem of_same_outputs (h : OnlyAdds r s) (inputs : t.inputs = s.inputs) (events : t.events = s.events)
    (answers : t.answers = s.answers) : OnlyAdds r t :=
  ⟨inputs.trans h.inputs, events ▸ h.events, answers ▸ h.answers⟩

/-! ### The updates of the state -/

protected theorem emit (h : OnlyAdds r s) (e : Event) : OnlyAdds r (s.emit e) :=
  ⟨h.inputs, h.events.trans (List.prefix_append _ _), h.answers⟩

protected theorem answer (h : OnlyAdds r s) (a : Answer) : OnlyAdds r (s.answer a) :=
  ⟨h.inputs, h.events, h.answers.trans (List.prefix_append _ _)⟩

protected theorem setRxbuf (h : OnlyAdds r s) (ch : Channel) (b : List Byte) : OnlyAdds r (s.setRxbuf ch b) :=
  h.of_same_outputs (by simp) (by simp) (by simp)

protected theorem setSlot (h : OnlyAdds r s) (k : Kind) (x : Slot) : OnlyAdds r (s.setSlot k x) :=
  h.of_same_outputs (by simp) (by simp) (by simp)

protected theorem setConnected (h : OnlyAdds r s) (b : Bool) : OnlyAdds r (s.setConnected b) := h.of_same_outputs rfl rfl rfl

protected theorem setStatus (h : OnlyAdds r s) (d : DeviceStatus) : OnlyAdds r (s.setStatus d) := h.of_same_outputs rfl rfl rfl

protected theorem setNow (h : OnlyAdds r s) (n : Word) : OnlyAdds r (s.setNow n) := h.of_same_outputs rfl rfl rfl

protected theorem setSeq (h : OnlyAdds r s) (n : Half) : OnlyAdds r (s.setSeq n) := h.of_same_outputs rfl rfl rfl

/-! ### Waits and the timer -/

protected theorem finishWait (h : OnlyAdds r s) (k : Kind) (e : Ending) : OnlyAdds r (finishWait k e s) := by
  rcases finishWait_cases k e s with ⟨_, heq⟩ | ⟨_, g, _, heq⟩ <;> rw [heq]
  · exact h
  · exact (h.emit _).setSlot k .idle

protected theorem expireWait (h : OnlyAdds r s) (k : Kind) : OnlyAdds r (expireWait k s) := by
  rcases expireWait_cases k s with ⟨heq, _⟩ | ⟨_, _, _, _, heq⟩ <;> rw [heq]
  · exact h
  · exact h.finishWait k .timeout

protected theorem tickTimer (h : OnlyAdds r s) : OnlyAdds r (tickTimer s) :=
  forEachKind_keeps (fun k _ hk => hk.expireWait k) (h.setNow _)

protected theorem tickTimes (h : OnlyAdds r s) (n : Nat) : OnlyAdds r (tickTimes n s) :=
  tickTimes_keeps (fun _ ht => ht.tickTimer) n h

/-! ### The dispatcher and the receive step -/

protected theorem updateStatus (h : OnlyAdds r s) (d : DeviceStatus) : OnlyAdds r (updateStatus d s) where
  inputs := by simp [h.inputs]
  events := by rw [updateStatus_events]; exact h.events.trans (List.prefix_append _ _)
  answers := by simp [h.answers]

protected theorem resolveSignal (h : OnlyAdds r s) (signal : Option (Kind × Byte)) : OnlyAdds r (resolveSignal signal s) := by
  rcases resolveSignal_cases signal s with ⟨_, heq⟩ | ⟨k, v, _, heq⟩ <;> rw [heq]
  · exact h
  · exact h.finishWait k _

protected theorem dispatch (h : OnlyAdds r s) (ch : Channel) (f : Frame) : OnlyAdds r (dispatch ch s f) := by
  rcases dispatch_cases ch s f with ⟨_, heq⟩ | ⟨e, _, heq⟩ <;> rw [heq]
  · exact h
  · exact (h.updateStatus e.status).resolveSignal e.signal

protected theorem receive (h : OnlyAdds r s) (ch : Channel) (c : List Byte) : OnlyAdds r (receive ch c s) :=
  receive_keeps (fun _ f hd => hd.dispatch ch f) c (h.setRxbuf ch _) h

protected theorem receiveFrame (h : OnlyAdds r s) (ch : Channel) (id : Byte) (p : List Byte) :
    OnlyAdds r (receiveFrame ch id p s) := by
  rcases receiveFrame_cases ch id p s with ⟨_, heq⟩ | ⟨_, heq⟩ <;> rw [heq]
  · exact h
  · exact receiveStep_keeps (fun _ f hd => hd.dispatch ch f) _ (h.setRxbuf ch _)

protected theorem receiveError (h : OnlyAdds r s) (ch : Channel) : OnlyAdds r (receiveError ch s) := by
  rcases receiveError_cases ch s with ⟨_, heq⟩ | ⟨_, heq⟩ <;> rw [heq]
  · exact h.emit _
  · exact h

/-! ### The host commands -/

protected theorem connectBlock (h : OnlyAdds r s) : OnlyAdds r (connectBlock s) := by
  rcases connectBlock_cases s with ⟨_, heq⟩ | ⟨_, heq⟩ <;> rw [heq]
  · exact h.answer _
  · exact ((((h.setConnected _).setRxbuf _ _).setRxbuf _ _).setStatus _).answer _

protected theorem disconnectBlock (h : OnlyAdds r s) : OnlyAdds r (disconnectBlock s) := by
  rcases disconnectBlock_cases s with ⟨_, heq⟩ | ⟨_, heq⟩ <;> rw [heq]
  · exact h.answer _
  · have hstopped := ((h.setConnected false).setRxbuf .data []).setRxbuf .cmd []
    exact ((forEachKind_keeps (fun k _ hk => hk.finishWait k .cancelled) hstopped).updateStatus _).answer _

protected theorem sendFrame (h : OnlyAdds r s) (ch : Channel) (id : Byte) (p : List Byte) (w : Bool) :
    OnlyAdds r (sendFrame ch id p w s) := by
  rcases sendFrame_cases ch id p w s with ⟨_, heq⟩ | ⟨_, _, heq⟩ | ⟨_, _, heq⟩ <;> rw [heq]
  · exact h.answer _
  · exact h.answer _
  · exact (h.emit _).answer _

protected theorem registerWait (h : OnlyAdds r s) (k : Kind) (t : Word) : OnlyAdds r (registerWait k t s) :=
  ((h.setSeq _).setSlot k _).answer _

protected theorem issueCommand (h : OnlyAdds r s) (k : Kind) (t : Word) (p : List Byte) (w : Bool) :
    OnlyAdds r (issueCommand k t p w s) := by
  have hwritten (frame : List Byte) := (h.finishWait k .superseded).emit (.txFrame (kindChannel k) frame)
  rcases issueCommand_cases k t p w s with
    ⟨_, heq⟩ | ⟨_, _, heq⟩ | ⟨_, _, _, heq⟩ | ⟨_, _, _, _, heq⟩ | ⟨_, _, _, _, heq⟩ <;> rw [heq]
  · exact h.answer _
  · exact h.answer _
  · exact h.answer _
  · exact (hwritten _).registerWait k t
  · exact (hwritten _).answer _

end OnlyAdds

/-- No instruction takes a further input or takes back an output. -/
theorem Action.onlyAdds {i : Instr} {s t : State} (h : Action i s t) : OnlyAdds s t := by
  have hs := OnlyAdds.refl s
  cases h with
  | connect => exact hs.connectBlock
  | disconnect => exact hs.disconnectBlock
  | send _ ch id p w => exact hs.sendFrame ch id p w
  | issue _ k t p w => exact hs.issueCommand k t p w
  | snapshot => exact hs.answer _
  | illegal => exact hs.answer _
  | receive _ ch c => exact hs.receive ch c
  | frame _ ch id p => exact hs.receiveFrame ch id p
  | error _ ch => exact hs.receiveError ch
  | tick => exact hs.tickTimer
  | ticks _ n => exact hs.tickTimes n

/-- A step passes over its first input, if there is one, and otherwise only adds outputs. -/
theorem step_onlyAdds {s t : State} (h : step s = .next t) : OnlyAdds (s.setInputs s.inputs.tail) t := by
  rcases step_cases h with ⟨hnone, rfl⟩ | ⟨inp, rest, hin, hcase⟩
  · exact ⟨by simp [hnone], List.prefix_rfl, List.prefix_rfl⟩
  · rw [hin, List.tail_cons]
    rcases hcase with ⟨_, rfl⟩ | ⟨_, rfl⟩ | ⟨i, _, hexec⟩
    · exact (OnlyAdds.refl _).answer _
    · exact OnlyAdds.refl _
    · exact (exec_cases hexec).onlyAdds

/-- Settles O7, from what every step only adds, read as the appended lists. -/
theorem stepTakesExactlyOneInput : Obligations.StepTakesExactlyOneInput := by
  intro s t hstep
  obtain ⟨hinputs, ⟨evs, hevents⟩, ⟨ans, hanswers⟩⟩ := step_onlyAdds hstep
  exact ⟨hinputs, ⟨evs, hevents.symm⟩, ⟨ans, hanswers.symm⟩⟩

end Sys2Proof.Machine

/-! # State (spec/10_state.md): O13, O15, O18, O20, O21, O11, O12, O54, O60 -/

namespace Sys2Proof.Machine

/-! ## What the commands and the timer leave unchanged -/

@[simp] theorem sendFrame_rxbuf (ch : Channel) (id : Byte) (p : List Byte) (w : Bool) (s : State) (c : Channel) :
    (sendFrame ch id p w s).rxbuf c = s.rxbuf c := by
  rcases sendFrame_cases ch id p w s with ⟨_, h⟩ | ⟨_, _, h⟩ | ⟨_, _, h⟩ <;> simp [h]

@[simp] theorem sendFrame_status (ch : Channel) (id : Byte) (p : List Byte) (w : Bool) (s : State) :
    (sendFrame ch id p w s).status = s.status := by
  rcases sendFrame_cases ch id p w s with ⟨_, h⟩ | ⟨_, _, h⟩ | ⟨_, _, h⟩ <;> simp [h]

@[simp] theorem issueCommand_rxbuf (k : Kind) (t : Word) (p : List Byte) (w : Bool) (s : State) (c : Channel) :
    (issueCommand k t p w s).rxbuf c = s.rxbuf c := by
  rcases issueCommand_cases k t p w s with
    ⟨_, h⟩ | ⟨_, _, h⟩ | ⟨_, _, _, h⟩ | ⟨_, _, _, _, h⟩ | ⟨_, _, _, _, h⟩ <;> simp [h, registerWait_eq]

@[simp] theorem issueCommand_status (k : Kind) (t : Word) (p : List Byte) (w : Bool) (s : State) :
    (issueCommand k t p w s).status = s.status := by
  rcases issueCommand_cases k t p w s with
    ⟨_, h⟩ | ⟨_, _, h⟩ | ⟨_, _, _, h⟩ | ⟨_, _, _, _, h⟩ | ⟨_, _, _, _, h⟩ <;> simp [h, registerWait_eq]

@[simp] theorem issueCommand_now (k : Kind) (t : Word) (p : List Byte) (w : Bool) (s : State) :
    (issueCommand k t p w s).now = s.now := by
  rcases issueCommand_cases k t p w s with
    ⟨_, h⟩ | ⟨_, _, h⟩ | ⟨_, _, _, h⟩ | ⟨_, _, _, _, h⟩ | ⟨_, _, _, _, h⟩ <;> simp [h, registerWait_eq]

@[simp] theorem receiveError_rxbuf (ch : Channel) (s : State) (c : Channel) :
    (receiveError ch s).rxbuf c = s.rxbuf c := by
  rcases receiveError_cases ch s with ⟨_, h⟩ | ⟨_, h⟩ <;> simp [h]

@[simp] theorem receiveError_status (ch : Channel) (s : State) : (receiveError ch s).status = s.status := by
  rcases receiveError_cases ch s with ⟨_, h⟩ | ⟨_, h⟩ <;> simp [h]

/-- Both ends of a connection leave both buffers as they were, or empty (R900, R901). -/
theorem connectBlock_rxbuf (s : State) (c : Channel) :
    (connectBlock s).rxbuf c = if s.connected then s.rxbuf c else [] := by
  rcases connectBlock_cases s with ⟨hc, h⟩ | ⟨hc, h⟩
  · simp [h, hc]
  · cases c <;> simp [h, hc]

@[inherit_doc connectBlock_rxbuf]
theorem disconnectBlock_rxbuf (s : State) (c : Channel) :
    (disconnectBlock s).rxbuf c = if s.connected then [] else s.rxbuf c := by
  rcases disconnectBlock_cases s with ⟨hc, h⟩ | ⟨hc, h⟩
  · simp [h, hc]
  · cases c <;> simp [h, hc, forEachKind_eq]

theorem connectBlock_status (s : State) :
    (connectBlock s).status = if s.connected then s.status else unknownStatus := by
  rcases connectBlock_cases s with ⟨hc, h⟩ | ⟨hc, h⟩ <;> simp [h, hc]

theorem disconnectBlock_status (s : State) :
    (disconnectBlock s).status = if s.connected then unknownStatus else s.status := by
  rcases disconnectBlock_cases s with ⟨hc, h⟩ | ⟨hc, h⟩ <;> simp [h, hc]

@[simp] theorem tickTimes_rxbuf (n : Nat) (s : State) (c : Channel) : (tickTimes n s).rxbuf c = s.rxbuf c :=
  tickTimes_keeps (P := fun t => t.rxbuf c = s.rxbuf c) (fun _ h => by simp [h]) n rfl

@[simp] theorem tickTimes_status (n : Nat) (s : State) : (tickTimes n s).status = s.status :=
  tickTimes_keeps (P := fun t => t.status = s.status) (fun _ h => by simp [h]) n rfl

@[simp] theorem sendFrame_now (ch : Channel) (id : Byte) (p : List Byte) (w : Bool) (s : State) :
    (sendFrame ch id p w s).now = s.now := by
  rcases sendFrame_cases ch id p w s with ⟨_, h⟩ | ⟨_, _, h⟩ | ⟨_, _, h⟩ <;> simp [h]

@[simp] theorem connectBlock_now (s : State) : (connectBlock s).now = s.now := by
  rcases connectBlock_cases s with ⟨_, h⟩ | ⟨_, h⟩ <;> simp [h]

@[simp] theorem disconnectBlock_now (s : State) : (disconnectBlock s).now = s.now := by
  rcases disconnectBlock_cases s with ⟨_, h⟩ | ⟨_, h⟩ <;> simp [h, forEachKind_eq]

@[simp] theorem receiveError_now (ch : Channel) (s : State) : (receiveError ch s).now = s.now := by
  rcases receiveError_cases ch s with ⟨_, h⟩ | ⟨_, h⟩ <;> simp [h]

@[simp] theorem receiveFrame_now (ch : Channel) (id : Byte) (p : List Byte) (s : State) :
    (receiveFrame ch id p s).now = s.now := by
  rcases receiveFrame_cases ch id p s with ⟨_, h⟩ | ⟨_, h⟩ <;> rw [h]
  exact receiveStep_keeps (P := fun t => t.now = s.now) (fun _ _ h => by simp [h]) _ (by simp)

/-! ## What every step keeps -/

/-- What passing over an input, the answer ILLEGAL and every instruction keep, a step keeps. -/
theorem step_keeps {P : State → Prop} (hinputs : ∀ s l, P s → P (s.setInputs l))
    (hillegal : ∀ s, P s → P (s.answer .illegal)) (haction : ∀ {i s t}, Action i s t → P s → P t) {s t : State}
    (hs : P s) (h : step s = .next t) : P t := by
  rcases step_cases h with ⟨_, rfl⟩ | ⟨inp, rest, _, ⟨_, rfl⟩ | ⟨_, rfl⟩ | ⟨i, _, hexec⟩⟩
  · exact hs
  · exact hillegal _ (hinputs _ _ hs)
  · exact hinputs _ _ hs
  · exact haction (exec_cases hexec) (hinputs _ _ hs)

/-! ## Receive buffers (R105) -/

@[simp] theorem retained_nil : Retained [] := trivial

/-- The length field of twelve bits bounds what a partial frame can hold. -/
theorem Retained.length_le {b : List Byte} (h : Retained b) : b.length ≤ 4098 := by
  match b with
  | [] | [_] | [_, _] => simp
  | first :: lo :: hi :: body =>
    obtain ⟨_, _, hshort⟩ := h
    have hfield := lengthOf_le lo hi
    omega

/-- A candidate that is not all there is a partial frame: behind a complete length field only a span that does not fit is
incomplete (R506). -/
theorem retained_of_examine_incomplete {t : CrcTable} {rest : List Byte}
    (h : examine t (som :: rest) = .incomplete) : Retained (som :: rest) := by
  match rest with
  | [] | [_] => exact ⟨rfl, trivial⟩
  | lo :: hi :: body =>
    refine ⟨rfl, ?_⟩
    simp only [examine] at h
    split at h
    · cases h
    · next hlen =>
      split at h
      · next hshort => exact ⟨Nat.not_lt.mp hlen, hshort⟩
      · next hfits =>
        match body with
        | [] => simp only [List.length_cons, List.length_nil] at hfits; omega
        | id :: tail =>
          have hdrop : 3 ≤ (tail.drop (lengthOf lo hi - 3)).length := by
            simp only [List.length_drop, List.length_cons] at hfits ⊢; omega
          simp only at h
          generalize tail.drop (lengthOf lo hi - 3) = d at h hdrop
          match d with
          | [] | [_] | [_, _] => simp at hdrop
          | cLo :: cHi :: last :: more =>
            simp only at h
            repeat' split at h
            all_goals cases h

/-- What a scan keeps is empty or a partial frame, whatever bytes it saw (R512). -/
theorem scan_retained (t : CrcTable) (b : List Byte) : Retained (scan t b).2 := by
  match b with
  | [] => simp
  | x :: rest =>
    by_cases hx : x = som
    · subst hx
      cases h : examine t (som :: rest) with
      | incomplete => rw [scan_incomplete h]; exact retained_of_examine_incomplete h
      | mismatch => rw [scan_mismatch h]; exact scan_retained t rest
      | accept f span => rw [scan_accept h]; exact scan_retained t (rest.drop (span - 1))
    · rw [scan_skip hx]; exact scan_retained t rest
termination_by b.length
decreasing_by all_goals simp; try omega

namespace BuffersRetained

variable {s t : State}

theorem of_rxbuf_eq (h : BuffersRetained s) (heq : ∀ ch, t.rxbuf ch = s.rxbuf ch) : BuffersRetained t :=
  fun ch => heq ch ▸ h ch

/-- A step that keeps a scan's remainder for one channel (R601). -/
theorem setRxbuf_scan (h : BuffersRetained s) (ch : Channel) (t : CrcTable) (b : List Byte) :
    BuffersRetained (s.setRxbuf ch (scan t b).2) := by
  intro c
  rw [State.setRxbuf_rxbuf]
  split
  · exact scan_retained t b
  · exact h c

protected theorem dispatch (h : BuffersRetained s) (ch : Channel) (f : Frame) : BuffersRetained (dispatch ch s f) :=
  h.of_rxbuf_eq (by simp)

protected theorem receive (h : BuffersRetained s) (ch : Channel) (c : List Byte) : BuffersRetained (receive ch c s) :=
  receive_keeps (fun _ f hd => hd.dispatch ch f) c (h.setRxbuf_scan ch _ _) h

protected theorem receiveFrame (h : BuffersRetained s) (ch : Channel) (id : Byte) (p : List Byte) :
    BuffersRetained (receiveFrame ch id p s) := by
  rcases receiveFrame_cases ch id p s with ⟨_, heq⟩ | ⟨_, heq⟩ <;> rw [heq]
  · exact h
  · exact receiveStep_keeps (fun _ f hd => hd.dispatch ch f) _ (h.setRxbuf_scan ch _ _)

protected theorem connectBlock (h : BuffersRetained s) : BuffersRetained (connectBlock s) := by
  intro c
  rw [connectBlock_rxbuf]
  split
  · exact h c
  · exact retained_nil

protected theorem disconnectBlock (h : BuffersRetained s) : BuffersRetained (disconnectBlock s) := by
  intro c
  rw [disconnectBlock_rxbuf]
  split
  · exact retained_nil
  · exact h c

end BuffersRetained

theorem Action.buffersRetained {i : Instr} {s t : State} (h : Action i s t) (hs : BuffersRetained s) :
    BuffersRetained t := by
  cases h with
  | connect => exact hs.connectBlock
  | disconnect => exact hs.disconnectBlock
  | send _ ch id p w => exact hs.of_rxbuf_eq (by simp)
  | issue _ k t p w => exact hs.of_rxbuf_eq (by simp)
  | snapshot => exact hs.of_rxbuf_eq (by simp [readSnapshot_eq])
  | illegal => exact hs.of_rxbuf_eq (by simp [illegalCommand_eq])
  | receive _ ch c => exact hs.receive ch c
  | frame _ ch id p => exact hs.receiveFrame ch id p
  | error _ ch => exact hs.of_rxbuf_eq (by simp)
  | tick => exact hs.of_rxbuf_eq (by simp)
  | ticks _ n => exact hs.of_rxbuf_eq (by simp)

theorem reset_buffersRetained : BuffersRetained State.reset := by intro ch; simp

/-- Settles O13: only a receive writes a buffer that is not emptied, and it writes a scan's remainder. -/
theorem receiveBuffersStayPartialFrames : Obligations.ReceiveBuffersStayPartialFrames := by
  refine ⟨reset_buffersRetained, fun s t hs hstep => ?_, fun b hb => hb.length_le⟩
  exact step_keeps (P := BuffersRetained) (fun _ _ h => h.of_rxbuf_eq (by simp)) (fun _ h => h.of_rxbuf_eq (by simp))
    Action.buffersRetained hs hstep

/-! ## Status values (R106) -/

theorem levelLegal_unknownLevel : LevelLegal unknownLevel := .inl rfl

/-- A zero-extended byte is a legal level, whatever byte it is (R702, R705, R706). -/
theorem levelLegal_levelOf (b : Byte) : LevelLegal (levelOf b) := by
  have hb := b.isLt
  refine .inr ?_
  simp only [levelOf, BitVec.toNat_setWidth]
  omega

theorem statusLegal_unknownStatus : StatusLegal unknownStatus :=
  ⟨levelLegal_unknownLevel, levelLegal_unknownLevel, levelLegal_unknownLevel, levelLegal_unknownLevel⟩

theorem status61_statusLegal {c : Config} {p : List Byte} {old : DeviceStatus} {e : Effect}
    (h : status61 c p old = some e) (hold : StatusLegal old) : StatusLegal e.status := by
  obtain ⟨_, _, hambient, hanc⟩ := hold
  unfold status61 at h
  split at h
  · cases h
    exact ⟨levelLegal_levelOf _, levelLegal_levelOf _, hambient, hanc⟩
  · cases h

theorem ack42_statusLegal {c : Config} {p : List Byte} {old : DeviceStatus} {e : Effect}
    (h : ack42 c p old = some e) (hold : StatusLegal old) : StatusLegal e.status := by
  obtain ⟨hleft, hright, hambient, hanc⟩ := hold
  unfold ack42 at h
  repeat' split at h
  case h_1.isTrue => cases h; exact ⟨hleft, hright, hambient, hanc⟩
  case h_1.isFalse.isTrue => cases h; exact ⟨hleft, hright, hambient, levelLegal_levelOf _⟩
  case h_1.isFalse.isFalse.isTrue => cases h; exact ⟨hleft, hright, levelLegal_levelOf _, hanc⟩
  all_goals cases h

theorem test01_status {p : List Byte} {old : DeviceStatus} {e : Effect} (h : test01 p old = some e) :
    e.status = old := by
  unfold test01 at h
  split at h <;> cases h
  rfl

/-- The status writes of any frame keep the values legal. -/
theorem interpret_statusLegal {c : Config} {ch : Channel} {f : Frame} {old : DeviceStatus} {e : Effect}
    (h : interpret c ch f old = some e) (hold : StatusLegal old) : StatusLegal e.status := by
  unfold interpret at h
  repeat' split at h
  case h_1.isTrue => exact status61_statusLegal h hold
  case h_1.isFalse.isTrue => exact ack42_statusLegal h hold
  case h_2.isTrue => rw [test01_status h]; exact hold
  all_goals cases h

@[simp] theorem resolveSignal_status (signal : Option (Kind × Byte)) (s : State) :
    (resolveSignal signal s).status = s.status := by
  rcases resolveSignal_cases signal s with ⟨_, h⟩ | ⟨_, _, _, h⟩ <;> simp [h]

theorem dispatch_statusLegal (ch : Channel) (s : State) (f : Frame) (hs : StatusLegal s.status) :
    StatusLegal (dispatch ch s f).status := by
  rcases dispatch_cases ch s f with ⟨_, h⟩ | ⟨e, he, h⟩ <;> rw [h]
  · exact hs
  · simpa using interpret_statusLegal he hs

theorem receive_statusLegal (ch : Channel) (c : List Byte) {s : State} (hs : StatusLegal s.status) :
    StatusLegal (receive ch c s).status :=
  receive_keeps (P := fun t => StatusLegal t.status) (dispatch_statusLegal ch) c (by simpa using hs) hs

theorem receiveFrame_statusLegal (ch : Channel) (id : Byte) (p : List Byte) {s : State} (hs : StatusLegal s.status) :
    StatusLegal (receiveFrame ch id p s).status := by
  rcases receiveFrame_cases ch id p s with ⟨_, h⟩ | ⟨_, h⟩ <;> rw [h]
  · exact hs
  · exact receiveStep_keeps (P := fun t => StatusLegal t.status) (dispatch_statusLegal ch) _ (by simpa using hs)

theorem Action.statusLegal {i : Instr} {s t : State} (h : Action i s t) (hs : StatusLegal s.status) :
    StatusLegal t.status := by
  cases h with
  | connect =>
    rw [connectBlock_status]
    split
    · exact hs
    · exact statusLegal_unknownStatus
  | disconnect =>
    rw [disconnectBlock_status]
    split
    · exact statusLegal_unknownStatus
    · exact hs
  | send _ ch id p w => simpa using hs
  | issue _ k t p w => simpa using hs
  | snapshot => exact hs
  | illegal => exact hs
  | receive _ ch c => exact receive_statusLegal ch c hs
  | frame _ ch id p => exact receiveFrame_statusLegal ch id p hs
  | error _ ch => simpa using hs
  | tick => simpa using hs
  | ticks _ n => simpa using hs

/-- Settles O15: a status write is UNKNOWN_STATUS or zero-extended bytes. -/
theorem statusValuesStayLegal : Obligations.StatusValuesStayLegal := by
  intro s t hs hstep
  exact step_keeps (P := fun t => StatusLegal t.status) (fun _ _ h => h) (fun _ h => h) Action.statusLegal hs hstep

/-! ## Reset (R119) -/

/-- Settles O11. -/
theorem resetLeavesThePowerOnValues : Obligations.ResetLeavesThePowerOnValues :=
  ⟨rfl, rfl, rfl, rfl, State.reset_slot, rfl, rfl, rfl⟩

theorem reset_quietWhenDisconnected : QuietWhenDisconnected State.reset :=
  fun _ => ⟨State.reset_rxbuf, State.reset_slot, rfl⟩

/-- No wait is live after reset. -/
theorem reset_deadlinesAhead : DeadlinesAhead State.reset := by
  intro k deadline tag hsent
  simp at hsent

/-- Nothing is registered, completed or live after reset. -/
theorem reset_outcomesBalance : OutcomesBalance State.reset := fun _ => rfl

/-- Settles O12. -/
theorem invariantsHoldAtReset : Obligations.InvariantsHoldAtReset :=
  ⟨reset_buffersRetained, reset_quietWhenDisconnected, statusLegal_unknownStatus, reset_deadlinesAhead,
    reset_outcomesBalance⟩

/-! ## The frame rows and the pseudo-instructions (R110, R307, R317) -/

theorem timeoutIllegal_eq_false {t : Word} (h : t.toNat ≤ 0x7FFFFFFF) : timeoutIllegal t = false := by
  simp only [timeoutIllegal, decide_eq_false_iff_not, BitVec.le_def, BitVec.toNat_ofNat]
  omega

/-- An ISSUE that passes every check and whose frame the transport took, as one explicit state (R801). -/
theorem issueCommand_eq_issued (k : Kind) {t : Word} {p : List Byte} {s : State} (hc : s.connected = true)
    (ht : t.toNat ≤ 0x7FFFFFFF) (hp : p.length ≤ 4092) : issueCommand k t p true s = issued k t p s := by
  have hfits : ¬ pMax < p.length := by unfold pMax; omega
  simp only [issueCommand, timeoutIllegal_eq_false ht, Bool.false_eq_true, if_neg hfits, if_pos hc, if_true, if_false,
    finishWait_eq]
  cases k <;> rfl

/-- A SEND that passes every check and whose frame the transport took, as one explicit state (R903). -/
theorem sendFrame_eq_sentFrame (ch : Channel) (id : Byte) {p : List Byte} {s : State} (hc : s.connected = true)
    (hp : p.length ≤ 4092) : sendFrame ch id p true s = sentFrame ch id p .ok s := by
  have hfits : ¬ pMax < p.length := by unfold pMax; omega
  simp only [sendFrame, hfits, hc, if_true, if_false]
  rfl

/-- Settles O54. -/
theorem kindsSendTheirCatalogueFrames : Obligations.KindsSendTheirCatalogueFrames := by
  refine ⟨fun s b t p w => ?rows, fun s t p b hc ht hp => ?taken, ?table⟩
  case rows => exact ⟨rfl, rfl, rfl, rfl, rfl, rfl, rfl, rfl, rfl, rfl⟩
  case taken =>
    have hissue (k : Kind) {q : List Byte} (hq : q.length ≤ 4092) :
        exec (.issue k t q true) s = .next (issued k t q s) := congrArg _ (issueCommand_eq_issued k hc ht hq)
    have hsend {q : List Byte} (hq : q.length ≤ 4092) :
        exec (.send .data 0x61#8 q true) s = .next (sentFrame .data 0x61#8 q .ok s) :=
      congrArg _ (sendFrame_eq_sentFrame .data 0x61#8 hc hq)
    have hone : [b].length ≤ 4092 := by simp
    have hnone : ([] : List Byte).length ≤ 4092 := by simp
    exact ⟨hissue .noise hp, hissue .ancLevel hp, hissue .ambientLevel hp, hissue .testConn hp, hsend hp,
      hissue .noise hone, hissue .ancLevel hone, hissue .ambientLevel hone, hissue .testConn hnone, hsend hnone⟩
  case table => exact ⟨rfl, rfl, rfl, rfl, rfl, rfl, rfl, rfl⟩

/-! ## Records and registers (R116, R117, R314, R1012) -/

/-- The little-endian bytes of a half in the shift and truncation of the spec's text. -/
theorem halfBytes_eq_shift (h : Half) : halfBytes h = [h.setWidth 8, (h >>> 8).setWidth 8] := by
  rw [halfBytes, BitVec.setWidth_eq_extractLsb' (by decide), BitVec.setWidth_ushiftRight_eq_extractLsb]

/-- The middle one of three joined bit vectors. -/
theorem extract_append_middle {a b c : Nat} (x : BitVec a) (y : BitVec b) (z : BitVec c) :
    (x ++ y ++ z).extractLsb' c b = y := by
  rw [extract_append_of_le _ _ le_rfl, Nat.sub_self, extract_append_low]

theorem resultWord_fields (a : Answer) :
    (resultWord a).extractLsb' 0 8 = answerCode a ∧ (resultWord a).extractLsb' 8 8 = 0#8 ∧
      (resultWord a).extractLsb' 16 16 = answerTag a := by
  refine ⟨extract_append_low _ _, extract_append_middle _ _ _, ?tag⟩
  case tag => exact (extract_append_of_le _ _ (by decide)).trans (extract_append_high _ _)

/-- A completion's header word, and the record behind it where the completion carries a snapshot (R1008, R1012). -/
theorem completion_layout (k : Kind) (g : Half) (e : Ending) :
    ∃ w, eventHeader (.completion k g e) = some w ∧ w.extractLsb' 0 4 = 1#4 ∧ w.extractLsb' 4 2 = kindBits k ∧
      w.extractLsb' 6 2 = endingCode e ∧ w.extractLsb' 8 8 = endingValue e ∧ w.extractLsb' 16 16 = g ∧
      eventBytes (.completion k g e) =
        wordBytes w ++ (match endingSnap e with | some d => statusRecord d | none => []) := by
  refine ⟨_, rfl, extract_append_low _ _, extract_append_middle _ _ _, ?code, ?value, ?tag, ?bytes⟩
  case code => exact (extract_append_of_le _ _ (by decide)).trans (extract_append_middle _ _ _)
  case value =>
    exact (extract_append_of_le _ _ (by decide)).trans
      ((extract_append_of_le _ _ (by decide)).trans (extract_append_middle _ _ _))
  case tag =>
    exact (extract_append_of_le _ _ (by decide)).trans ((extract_append_of_le _ _ (by decide)).trans
      ((extract_append_of_le _ _ (by decide)).trans (extract_append_high _ _)))
  case bytes => cases e <;> simp [eventBytes, endingSnap, endingValue]

theorem slotRegister_sent_fields (d : Word) (g : Half) :
    (slotRegister (.sent d g)).extractLsb' 0 1 = 1#1 ∧ (slotRegister (.sent d g)).extractLsb' 1 16 = g ∧
      (slotRegister (.sent d g)).extractLsb' 17 32 = d := by
  refine ⟨extract_append_low _ _, extract_append_middle _ _ _, ?deadline⟩
  case deadline => exact (extract_append_of_le _ _ (by decide)).trans (extract_append_high _ _)

/-- The bytes are those of the bit vector, the least significant first (R203). -/
def LittleEndian {m : Nat} (l : List Byte) (x : BitVec m) : Prop :=
  ∀ n < l.length, l[n]? = some (x.extractLsb' (8 * n) 8)

theorem littleEndian_byte (b : Byte) : LittleEndian [b] b := by
  intro n hn
  obtain rfl : n = 0 := by simpa using hn
  simp

theorem littleEndian_halfBytes (h : Half) : LittleEndian (halfBytes h) h := by
  intro n hn
  match n with
  | 0 | 1 => rfl
  | n + 2 => simp [halfBytes] at hn

/-- Joining on the significant side is appending. -/
theorem LittleEndian.append {a b : Nat} {k l : List Byte} {x : BitVec a} {y : BitVec b} (hy : LittleEndian k y)
    (hx : LittleEndian l x) (hb : b = 8 * k.length) : LittleEndian (k ++ l) (x ++ y) := by
  intro n hn
  rw [List.length_append] at hn
  by_cases hk : n < k.length
  · rw [List.getElem?_append_left hk, hy n hk, BitVec.extractLsb'_append_eq_of_add_le (by omega)]
  · have hstart : 8 * (n - k.length) = 8 * n - b := by omega
    rw [List.getElem?_append_right (by omega), hx _ (by omega), extract_append_of_le _ _ (by omega), hstart]

/-- S7 is the status record, its first byte least significant. -/
theorem littleEndian_statusRecord (d : DeviceStatus) : LittleEndian (statusRecord d) (statusRegister d) := by
  have hreserved : LittleEndian [0#8, 0#8] 0#16 := littleEndian_halfBytes 0#16
  have hcodes := (littleEndian_byte (wearCode d.isWearing)).append
    ((littleEndian_byte (ncModeCode d.noiseControlMode)).append hreserved rfl) rfl
  have hlevels := (littleEndian_halfBytes d.ambientLevel).append
    ((littleEndian_halfBytes d.ancLevel).append hcodes rfl) rfl
  exact (littleEndian_halfBytes d.batteryLeft).append ((littleEndian_halfBytes d.batteryRight).append hlevels rfl) rfl

/-- Settles O60. -/
theorem recordsAndResultWordsAreLaidOut : Obligations.RecordsAndResultWordsAreLaidOut := by
  refine ⟨fun _ => rfl, ?record, by decide, ⟨rfl, rfl, rfl⟩, ⟨rfl, rfl, rfl, rfl, rfl⟩, resultWord_fields, ?answers,
    ?answerBytes, ?snapshotBytes, ?endings, ⟨rfl, rfl, rfl, rfl⟩, completion_layout, fun _ => ⟨rfl, rfl⟩,
    ⟨rfl, rfl, rfl, rfl⟩, fun _ _ => ⟨rfl, rfl⟩, rfl, slotRegister_sent_fields, ?statusRegister⟩
  case record =>
    intro d
    simp only [statusRecord, halfBytes_eq_shift]
    rfl
  case answers => exact fun _ _ => ⟨rfl, rfl, rfl, rfl, rfl, rfl, rfl, rfl, rfl, rfl, rfl, rfl, rfl, rfl, rfl, rfl⟩
  case answerBytes =>
    intro a ha
    cases a with
    | snapshot x => exact absurd rfl (ha x)
    | ok | registered _ | encodeError | writeError | notConnected | illegal | stateError => rfl
  case snapshotBytes => exact fun _ => ⟨rfl, rfl, rfl⟩
  case endings => exact fun _ _ => ⟨rfl, rfl, rfl, rfl, rfl, rfl, rfl, rfl, rfl, rfl, rfl, rfl⟩
  case statusRegister => exact fun d n hn => littleEndian_statusRecord d n hn

/-! ## The timer (R113) -/

/-- The decoder yields no pseudo-instruction TICK*n (R317). -/
theorem decode_ne_ticks {inp : Input} {i : Instr} (h : decode inp = .instr i) (n : Nat) : i ≠ .ticks n := by
  rintro rfl
  obtain ⟨_, hexpand⟩ := decode_core h
  have hmem : Instr.ticks n ∈ List.replicate n Instr.tick := by
    have hself : Instr.ticks n ∈ [Instr.ticks n] := List.mem_singleton_self _
    rwa [← hexpand] at hself
  cases List.eq_of_mem_replicate hmem

theorem Action.now_eq {i : Instr} {s t : State} (h : Action i s t) (htick : i ≠ .tick) (hticks : ∀ n, i ≠ .ticks n) :
    t.now = s.now := by
  cases h with
  | connect => simp
  | disconnect => simp
  | send _ ch id p w => simp
  | issue _ k t p w => simp
  | snapshot => rfl
  | illegal => rfl
  | receive _ ch c => simp
  | frame _ ch id p => simp
  | error _ ch => simp
  | tick => exact absurd rfl htick
  | ticks _ n => exact absurd rfl (hticks n)

/-- Settles O21: TICK is `tickTimer`, and no other decoded instruction writes the timer. -/
theorem onlyTickMovesTheTimer : Obligations.OnlyTickMovesTheTimer := by
  intro s t hstep
  constructor
  · intro inp rest hin hdec
    rw [step_of_inputs_cons hin, stepInput_instr hdec] at hstep
    cases hstep
    exact tickTimer_now _
  · intro hnone
    rcases step_cases hstep with ⟨_, rfl⟩ | ⟨inp, rest, hin, ⟨_, rfl⟩ | ⟨_, rfl⟩ | ⟨i, hdec, hexec⟩⟩
    · rfl
    · rfl
    · rfl
    · have htick : i ≠ .tick := fun hi => hnone inp rest hin (hi ▸ hdec)
      exact (exec_cases hexec).now_eq htick (decode_ne_ticks hdec)

/-! ## The tag counter (R114) -/

/-- From `s` to `t` no ISSUE was answered OK, and the tag counter stayed. -/
structure RegistersNothing (s t : State) : Prop where
  seq : t.seq = s.seq
  registrations : ∀ g, registrationsWith g t.answers = registrationsWith g s.answers

/-- From `s` to `t` one wait was registered: it has the old tag counter as its tag, the one answer is OK with that tag, and the
counter moved on. -/
structure RegistersOne (s t : State) : Prop where
  seq : t.seq = s.seq + 1#16
  answers : t.answers = s.answers ++ [.registered s.seq]
  slot : ∃ k d, t.slot k = .sent d s.seq

namespace RegistersNothing

variable {r s t : State}

theorem of_eq (seq : t.seq = s.seq) (answers : t.answers = s.answers) : RegistersNothing s t :=
  ⟨seq, fun _ => by rw [answers]⟩

protected theorem answer (h : RegistersNothing r s) {a : Answer} (ha : ∀ g, registrationsWith g [a] = 0) :
    RegistersNothing r (s.answer a) :=
  ⟨h.seq, fun g => by rw [State.answer_answers, registrationsWith_append, ha, Nat.add_zero, h.registrations]⟩

/-- One answer other than the OK of a registered wait. -/
theorem of_answer (seq : s.seq = r.seq) (answers : s.answers = r.answers) {a : Answer}
    (ha : ∀ g, registrationsWith g [a] = 0) : RegistersNothing r (s.answer a) :=
  (of_eq seq answers).answer ha

protected theorem connectBlock (s : State) : RegistersNothing s (connectBlock s) := by
  rcases connectBlock_cases s with ⟨_, h⟩ | ⟨_, h⟩ <;> rw [h]
  · exact of_answer rfl rfl fun _ => rfl
  · exact of_answer (by simp) (by simp) fun _ => rfl

protected theorem disconnectBlock (s : State) : RegistersNothing s (disconnectBlock s) := by
  rcases disconnectBlock_cases s with ⟨_, h⟩ | ⟨_, h⟩ <;> rw [h]
  · exact of_answer rfl rfl fun _ => rfl
  · exact of_answer (by simp [forEachKind_eq]) (by simp [forEachKind_eq]) fun _ => rfl

protected theorem sendFrame (ch : Channel) (id : Byte) (p : List Byte) (w : Bool) (s : State) :
    RegistersNothing s (sendFrame ch id p w s) := by
  rcases sendFrame_cases ch id p w s with ⟨_, h⟩ | ⟨_, _, h⟩ | ⟨_, _, h⟩ <;> rw [h]
  · exact of_answer rfl rfl fun _ => rfl
  · exact of_answer rfl rfl fun _ => rfl
  · refine of_answer (by simp) (by simp) fun _ => ?_
    cases w <;> rfl

protected theorem receiveFrame (ch : Channel) (id : Byte) (p : List Byte) (s : State) :
    RegistersNothing s (receiveFrame ch id p s) := by
  have hd : ∀ u f, RegistersNothing s u → RegistersNothing s (dispatch ch u f) :=
    fun u f hu => ⟨by simp [hu.seq], by simp [hu.registrations]⟩
  rcases receiveFrame_cases ch id p s with ⟨_, h⟩ | ⟨_, h⟩ <;> rw [h]
  · exact of_eq rfl rfl
  · exact receiveStep_keeps hd _ (of_eq (by simp) (by simp))

protected theorem receiveError (ch : Channel) (s : State) : RegistersNothing s (receiveError ch s) := by
  rcases receiveError_cases ch s with ⟨_, h⟩ | ⟨_, h⟩ <;> rw [h] <;> exact of_eq rfl rfl

protected theorem tickTimes (n : Nat) (s : State) : RegistersNothing s (tickTimes n s) :=
  tickTimes_keeps (fun _ hu => ⟨by simp [hu.seq], by simp [hu.registrations]⟩) n (of_eq rfl rfl)

end RegistersNothing

theorem issueCommand_registers (k : Kind) (t : Word) (p : List Byte) (w : Bool) (s : State) :
    RegistersNothing s (issueCommand k t p w s) ∨ RegistersOne s (issueCommand k t p w s) := by
  rcases issueCommand_cases k t p w s with
    ⟨_, h⟩ | ⟨_, _, h⟩ | ⟨_, _, _, h⟩ | ⟨_, _, _, _, h⟩ | ⟨_, _, _, _, h⟩ <;> rw [h]
  · exact .inl (.of_answer rfl rfl fun _ => rfl)
  · exact .inl (.of_answer rfl rfl fun _ => rfl)
  · exact .inl (.of_answer rfl rfl fun _ => rfl)
  · exact .inr ⟨by simp [registerWait_eq], by simp [registerWait_eq], k, _, by simp [registerWait_eq]; rfl⟩
  · exact .inl (.of_answer (by simp) (by simp) fun _ => rfl)

theorem Action.registers {i : Instr} {s t : State} (h : Action i s t) : RegistersNothing s t ∨ RegistersOne s t := by
  cases h with
  | connect => exact .inl (.connectBlock s)
  | disconnect => exact .inl (.disconnectBlock s)
  | send _ ch id p w => exact .inl (.sendFrame ch id p w s)
  | issue _ k t p w => exact issueCommand_registers k t p w s
  | snapshot => exact .inl (.of_answer rfl rfl fun _ => rfl)
  | illegal => exact .inl (.of_answer rfl rfl fun _ => rfl)
  | receive _ ch c => exact .inl (.of_eq (by simp) (by simp))
  | frame _ ch id p => exact .inl (.receiveFrame ch id p s)
  | error _ ch => exact .inl (.receiveError ch s)
  | tick => exact .inl (.of_eq (by simp) (by simp))
  | ticks _ n => exact .inl (.tickTimes n s)

theorem step_registers {s t : State} (h : step s = .next t) : RegistersNothing s t ∨ RegistersOne s t := by
  rcases step_cases h with ⟨_, rfl⟩ | ⟨inp, rest, _, ⟨_, rfl⟩ | ⟨_, rfl⟩ | ⟨i, _, hexec⟩⟩
  · exact .inl (.of_eq rfl rfl)
  · exact .inl (.of_answer (by simp) (by simp) fun _ => rfl)
  · exact .inl (.of_eq rfl rfl)
  · rcases (exec_cases hexec).registers with ⟨hseq, hreg⟩ | ⟨hseq, hanswers, hslot⟩
    · exact .inl ⟨hseq, hreg⟩
    · exact .inr ⟨hseq, hanswers, hslot⟩

/-- Settles O20: of all operations only an ISSUE whose frame the transport took writes the tag counter. -/
theorem tagsCountRegistrations : Obligations.TagsCountRegistrations := by
  intro s t hstep
  rcases step_registers hstep with ⟨hseq, hreg⟩ | ⟨hseq, hanswers, hslot⟩
  · exact .inl ⟨hseq, hreg⟩
  · exact .inr ⟨hseq, hanswers, hslot⟩

/-! ## The registry of waits (R112) -/

/-- The completion that the end `e` of a slot's wait emits. -/
def endedBy (e : Ending) : Slot → List (Half × Ending)
  | .idle => []
  | .sent _ g => [(g, e)]

/-- From `s` to `t` the slot of kind `k` stayed as it was, and no wait of the kind completed. -/
structure WaitKept (k : Kind) (s t : State) : Prop where
  slot : t.slot k = s.slot k
  completions : completionsOf k t.events = completionsOf k s.events

/-- From `s` to `t` the wait of kind `k`, if one was live, ended in `e`. -/
structure WaitEnds (k : Kind) (e : Ending) (s t : State) : Prop where
  slot : t.slot k = .idle
  completions : completionsOf k t.events = completionsOf k s.events ++ endedBy e (s.slot k)

/-- From `s` to `t` a wait of kind `k` was registered and answered, and the one before it, if it was live, superseded. -/
structure WaitRenewed (k : Kind) (s t : State) : Prop where
  slot : ∃ d, t.slot k = .sent d s.seq
  completions : completionsOf k t.events = completionsOf k s.events ++ endedBy .superseded (s.slot k)
  answers : t.answers = s.answers ++ [.registered s.seq]

section

variable {j k : Kind} {e : Ending} {r s t : State}

namespace WaitKept

protected theorem refl (k : Kind) (s : State) : WaitKept k s s := ⟨rfl, rfl⟩

protected theorem trans (hrs : WaitKept k r s) (hst : WaitKept k s t) : WaitKept k r t :=
  ⟨hst.slot.trans hrs.slot, hst.completions.trans hrs.completions⟩

theorem trans_ends (hrs : WaitKept k r s) (hst : WaitEnds k e s t) : WaitEnds k e r t :=
  ⟨hst.slot, by rw [hst.completions, hrs.completions, hrs.slot]⟩

theorem of_eq (slot : t.slot k = s.slot k) (events : t.events = s.events) : WaitKept k s t :=
  ⟨slot, by rw [events]⟩

protected theorem emit (s : State) {x : Event} (hx : completionsOf k [x] = []) : WaitKept k s (s.emit x) :=
  ⟨State.emit_slot s x k, by rw [State.emit_events, completionsOf_append, hx, List.append_nil]⟩

protected theorem answer (s : State) (a : Answer) : WaitKept k s (s.answer a) := of_eq (by simp) rfl

protected theorem setInputs (s : State) (l : List Input) : WaitKept k s (s.setInputs l) := of_eq (by simp) rfl

protected theorem setRxbuf (s : State) (ch : Channel) (b : List Byte) : WaitKept k s (s.setRxbuf ch b) :=
  of_eq (by simp) (by simp)

protected theorem updateStatus (d : DeviceStatus) (s : State) : WaitKept k s (updateStatus d s) := by
  refine ⟨updateStatus_slot d s k, ?_⟩
  rw [updateStatus_events, completionsOf_append]
  split <;> simp [completionsOf]

/-- The end of another kind's wait. -/
protected theorem finishWait (h : k ≠ j) (e : Ending) (s : State) : WaitKept k s (finishWait j e s) := by
  refine ⟨finishWait_slot_ne e s h, ?_⟩
  rw [finishWait_events, completionsOf_append]
  split <;> simp [completionsOf, h.symm]

protected theorem expireWait (h : k ≠ j) (s : State) : WaitKept k s (expireWait j s) := by
  rcases expireWait_cases j s with ⟨heq, _⟩ | ⟨_, _, _, _, heq⟩ <;> rw [heq]
  · exact .refl k s
  · exact .finishWait h .timeout s

end WaitKept

theorem WaitEnds.trans_kept (hrs : WaitEnds k e r s) (hst : WaitKept k s t) : WaitEnds k e r t :=
  ⟨hst.slot.trans hrs.slot, hst.completions.trans hrs.completions⟩

/-- An Idle slot has no wait to end. -/
theorem WaitEnds.kept_of_idle (h : WaitEnds k e s t) (hidle : s.slot k = .idle) : WaitKept k s t :=
  ⟨h.slot.trans hidle.symm, by rw [h.completions, hidle]; exact List.append_nil _⟩

theorem finishWait_ends (k : Kind) (e : Ending) (s : State) : WaitEnds k e s (finishWait k e s) := by
  refine ⟨finishWait_slot_self k e s, ?_⟩
  rw [finishWait_events, completionsOf_append]
  cases s.slot k <;> simp [completionsOf, endedBy]

theorem expireWait_wait (k : Kind) (s : State) :
    WaitKept k s (expireWait k s) ∨
      (WaitEnds k .timeout s (expireWait k s) ∧ ∀ d g, s.slot k = .sent d g → expired s.now d = true) := by
  rcases expireWait_cases k s with ⟨heq, _⟩ | ⟨d, g, hslot, hexp, heq⟩ <;> rw [heq]
  · exact .inl (.refl k s)
  · refine .inr ⟨finishWait_ends k .timeout s, fun d' g' hslot' => ?_⟩
    rw [hslot] at hslot'
    cases hslot'
    exact hexp

/-! ### The walk over the kinds -/

/-- Of the walk over the kinds, a relation that the visits to the other kinds keep sees the one visit to kind `k`. -/
theorem forEachKind_visit {R : State → State → Prop} {f : Kind → State → State} (k : Kind) (hrefl : ∀ s, R s s)
    (htrans : ∀ {r s t}, R r s → R s t → R r t) (hother : ∀ j s, k ≠ j → R s (f j s)) (s : State) :
    ∃ u, R s u ∧ R (f k u) (forEachKind f s) := by
  cases k with
  | noise =>
    exact ⟨s, hrefl s, htrans (htrans (hother .ancLevel _ (by decide)) (hother .ambientLevel _ (by decide)))
      (hother .testConn _ (by decide))⟩
  | ancLevel =>
    exact ⟨_, hother .noise s (by decide),
      htrans (hother .ambientLevel _ (by decide)) (hother .testConn _ (by decide))⟩
  | ambientLevel =>
    exact ⟨_, htrans (hother .noise s (by decide)) (hother .ancLevel _ (by decide)),
      hother .testConn _ (by decide)⟩
  | testConn =>
    exact ⟨_, htrans (htrans (hother .noise s (by decide)) (hother .ancLevel _ (by decide)))
      (hother .ambientLevel _ (by decide)), hrefl _⟩

theorem cancelAll_ends (k : Kind) (s : State) :
    WaitEnds k .cancelled s (forEachKind (fun j => finishWait j .cancelled) s) := by
  obtain ⟨u, hbefore, hafter⟩ := forEachKind_visit (R := WaitKept k) (f := fun j => finishWait j .cancelled) k
    (.refl k) .trans (fun j s h => .finishWait h .cancelled s) s
  exact (hbefore.trans_ends (finishWait_ends k .cancelled u)).trans_kept hafter

theorem tickTimer_wait (k : Kind) (s : State) :
    WaitKept k s (tickTimer s) ∨
      (WaitEnds k .timeout s (tickTimer s) ∧ ∀ d g, s.slot k = .sent d g → expired (s.now + 1#32) d = true) := by
  have hmoved : WaitKept k s (s.setNow (s.now + 1#32)) := .of_eq (by simp) rfl
  obtain ⟨u, ⟨hbefore, hnow⟩, hafter, _⟩ :=
    forEachKind_visit (R := fun s t => WaitKept k s t ∧ t.now = s.now) (f := expireWait) k (fun s => ⟨.refl k s, rfl⟩)
      (fun hrs hst => ⟨hrs.1.trans hst.1, hst.2.trans hrs.2⟩) (fun j s h => ⟨.expireWait h s, expireWait_now j s⟩)
      (s.setNow (s.now + 1#32))
  rw [← tickTimer_eq] at hafter
  have hkept := hmoved.trans hbefore
  rcases expireWait_wait k u with hstay | ⟨hends, hexp⟩
  · exact .inl ((hkept.trans hstay).trans hafter)
  · refine .inr ⟨(hkept.trans_ends hends).trans_kept hafter, fun d g hslot => ?_⟩
    have hdue := hexp d g (hkept.slot.trans hslot)
    rwa [hnow] at hdue

theorem disconnectBlock_wait (k : Kind) (s : State) :
    WaitKept k s (disconnectBlock s) ∨
      (WaitEnds k .cancelled s (disconnectBlock s) ∧ (disconnectBlock s).answers = s.answers ++ [.ok]) := by
  rcases disconnectBlock_cases s with ⟨_, h⟩ | ⟨_, h⟩ <;> rw [h]
  · exact .inl (.answer s .ok)
  · refine .inr ⟨?_, by simp [forEachKind_eq]⟩
    have hstopped : WaitKept k s (((s.setConnected false).setRxbuf .data []).setRxbuf .cmd []) :=
      .of_eq (by simp) (by simp)
    exact ((hstopped.trans_ends (cancelAll_ends k _)).trans_kept (.updateStatus _ _)).trans_kept (.answer _ _)

/-! ### The host commands -/

theorem connectBlock_waitKept (k : Kind) (s : State) : WaitKept k s (connectBlock s) := by
  rcases connectBlock_cases s with ⟨_, h⟩ | ⟨_, h⟩ <;> rw [h] <;> exact .of_eq (by simp) (by simp)

theorem sendFrame_waitKept (k : Kind) (ch : Channel) (id : Byte) (p : List Byte) (w : Bool) (s : State) :
    WaitKept k s (sendFrame ch id p w s) := by
  rcases sendFrame_cases ch id p w s with ⟨_, h⟩ | ⟨_, _, h⟩ | ⟨_, _, h⟩ <;> rw [h]
  · exact .answer s _
  · exact .answer s _
  · exact (WaitKept.emit s rfl).trans (.answer _ _)

theorem receiveError_waitKept (k : Kind) (ch : Channel) (s : State) : WaitKept k s (receiveError ch s) := by
  rcases receiveError_cases ch s with ⟨_, h⟩ | ⟨_, h⟩ <;> rw [h]
  · exact .emit s rfl
  · exact .refl k s

/-- An ISSUE leaves the waits of the other kinds alone. -/
theorem issueCommand_waitKept (h : k ≠ j) (T : Word) (p : List Byte) (w : Bool) (s : State) :
    WaitKept k s (issueCommand j T p w s) := by
  have hwritten (frame : List Byte) : WaitKept k s ((finishWait j .superseded s).emit (.txFrame (kindChannel j) frame)) :=
    (WaitKept.finishWait h .superseded s).trans (.emit _ rfl)
  rcases issueCommand_cases j T p w s with
    ⟨_, heq⟩ | ⟨_, _, heq⟩ | ⟨_, _, _, heq⟩ | ⟨_, _, _, _, heq⟩ | ⟨_, _, _, _, heq⟩ <;> rw [heq]
  · exact .answer s _
  · exact .answer s _
  · exact .answer s _
  · exact (hwritten (encodeFrame s.config.crcTable (kindMessageId j) p)).trans
      (.of_eq (by simp [registerWait_eq, h]) (by simp [registerWait_eq]))
  · exact (hwritten _).trans (.answer _ _)

/-- All an ISSUE does to the wait of its own kind: an error before the write leaves it alone, a failed write supersedes it, and a
taken write puts the new wait in its place (R801, R803). -/
theorem issueCommand_wait (k : Kind) (T : Word) (p : List Byte) (w : Bool) (s : State) :
    WaitKept k s (issueCommand k T p w s) ∨
      (w = false ∧ WaitEnds k .superseded s (issueCommand k T p w s) ∧
        (issueCommand k T p w s).answers = s.answers ++ [.writeError]) ∨
      (w = true ∧ WaitRenewed k s (issueCommand k T p w s)) := by
  have hwritten (frame : List Byte) :
      WaitEnds k .superseded s ((finishWait k .superseded s).emit (.txFrame (kindChannel k) frame)) :=
    (finishWait_ends k .superseded s).trans_kept (.emit _ rfl)
  rcases issueCommand_cases k T p w s with
    ⟨_, heq⟩ | ⟨_, _, heq⟩ | ⟨_, _, _, heq⟩ | ⟨_, _, _, hw, heq⟩ | ⟨_, _, _, hw, heq⟩ <;> rw [heq]
  · exact .inl (.answer s _)
  · exact .inl (.answer s _)
  · exact .inl (.answer s _)
  · refine .inr (.inr ⟨hw, ⟨s.now + timeoutTicks T, by simp [registerWait_eq]⟩, ?_, by simp [registerWait_eq]⟩)
    simpa [registerWait_eq] using (hwritten _).completions
  · exact .inr (.inl ⟨hw, (hwritten _).trans_kept (.answer _ _), by simp⟩)

/-! ### Received frames -/

theorem resolveSignal_waitKept {signal : Option (Kind × Byte)} (h : ∀ v, signal ≠ some (k, v)) (s : State) :
    WaitKept k s (resolveSignal signal s) := by
  rcases resolveSignal_cases signal s with ⟨_, heq⟩ | ⟨j, v, hsome, heq⟩ <;> rw [heq]
  · exact .refl k s
  · refine .finishWait ?_ _ s
    rintro rfl
    exact h v hsome

/-- A frame on another channel than the kind's is no signal of the kind (R110). -/
theorem dispatch_waitKept {ch : Channel} (h : kindChannel k ≠ ch) (s : State) (f : Frame) :
    WaitKept k s (dispatch ch s f) := by
  rcases dispatch_cases ch s f with ⟨_, heq⟩ | ⟨e, he, heq⟩ <;> rw [heq]
  · exact .refl k s
  · exact (WaitKept.updateStatus _ s).trans (resolveSignal_waitKept (fun v hs => h (interpret_kind he hs)) _)

/-- All a frame on the kind's channel does to the wait: nothing, or, where it is the kind's signal, the end in SUCCESS with the status
after its writes. -/
theorem dispatch_wait (k : Kind) (s : State) (f : Frame) :
    WaitKept k s (dispatch (kindChannel k) s f) ∨
      ∃ v, Signals s.config s.status f k v ∧
        WaitEnds k (.success v (dispatch (kindChannel k) s f).status) s (dispatch (kindChannel k) s f) := by
  rcases dispatch_cases (kindChannel k) s f with ⟨_, heq⟩ | ⟨e, he, heq⟩ <;> rw [heq]
  · exact .inl (.refl k s)
  · have hwrites : WaitKept k s (updateStatus e.status s) := .updateStatus _ s
    by_cases hsignal : ∃ v, e.signal = some (k, v)
    · obtain ⟨v, hv⟩ := hsignal
      refine .inr ⟨v, (signals_iff _ _ _ _ _).2 ⟨e, he, hv⟩, ?_⟩
      rw [resolveSignal_status, hv]
      exact hwrites.trans_ends (finishWait_ends k _ _)
    · exact .inl (hwrites.trans (resolveSignal_waitKept (fun v hv => hsignal ⟨v, hv⟩) _))

/-- The frames before `f` left the wait alone, so what a later frame does to it, it does in the whole list. -/
theorem ResolvedBy.cons {f : Frame} {fs : List Frame} {v : Byte} {snap : DeviceStatus}
    (hkept : WaitKept k s (dispatch (kindChannel k) s f))
    (h : ResolvedBy (dispatch (kindChannel k) s f) fs k v snap) : ResolvedBy s (f :: fs) k v snap := by
  obtain ⟨before, g, after, rfl, hslot, hsignal, hsnap⟩ := h
  rw [dispatch_config] at hsignal
  exact ⟨f :: before, g, after, rfl, hslot.trans hkept.slot, hsignal, hsnap⟩

/-- All the frames of one input do to the wait: nothing, or the one that is the kind's signal while it is live ends it. -/
theorem dispatchAll_wait (k : Kind) (fs : List Frame) (s : State) :
    WaitKept k s (fs.foldl (dispatch (kindChannel k)) s) ∨
      ∃ v snap, ResolvedBy s fs k v snap ∧
        WaitEnds k (.success v snap) s (fs.foldl (dispatch (kindChannel k)) s) := by
  induction fs generalizing s with
  | nil => exact .inl (.refl k s)
  | cons f fs ih =>
    rw [List.foldl_cons]
    rcases dispatch_wait k s f with hkept | ⟨v, hsignal, hends⟩
    · rcases ih (dispatch (kindChannel k) s f) with hrest | ⟨v, snap, hres, hends⟩
      · exact .inl (hkept.trans hrest)
      · exact .inr ⟨v, snap, hres.cons hkept, hkept.trans_ends hends⟩
    · refine .inr ⟨v, _, ⟨[], f, fs, rfl, rfl, hsignal, rfl⟩, hends.trans_kept ?_⟩
      rcases ih (dispatch (kindChannel k) s f) with hrest | ⟨_, _, _, hends'⟩
      · exact hrest
      · exact hends'.kept_of_idle hends.slot

/-- The two states agree in all that decides which frame ends a wait. -/
structure SameRegistry (s t : State) : Prop where
  config : t.config = s.config
  status : t.status = s.status
  slot : ∀ k, t.slot k = s.slot k

namespace SameRegistry

protected theorem updateStatus (h : SameRegistry s t) (d : DeviceStatus) :
    SameRegistry (updateStatus d s) (updateStatus d t) :=
  ⟨by simp [h.config], by simp, by simp [h.slot]⟩

protected theorem finishWait (h : SameRegistry s t) (k : Kind) (e : Ending) :
    SameRegistry (finishWait k e s) (finishWait k e t) := by
  refine ⟨by simp [h.config], by simp [h.status], fun j => ?_⟩
  by_cases hj : j = k
  · subst hj; simp
  · simp [hj, h.slot]

protected theorem dispatch (h : SameRegistry s t) (ch : Channel) (f : Frame) :
    SameRegistry (dispatch ch s f) (dispatch ch t f) := by
  unfold dispatch
  rw [h.config, h.status]
  split
  · exact h
  · next e _ =>
    have hwrites := h.updateStatus e.status
    cases hs : e.signal with
    | none => exact hwrites
    | some kv =>
      have hends := hwrites.finishWait kv.1 (.success kv.2 e.status)
      simpa [resolveSignal, resolve_eq] using hends

protected theorem dispatchAll (h : SameRegistry s t) (ch : Channel) (fs : List Frame) :
    SameRegistry (fs.foldl (dispatch ch) s) (fs.foldl (dispatch ch) t) := by
  induction fs generalizing s t with
  | nil => exact h
  | cons f fs ih => exact ih (h.dispatch ch f)

protected theorem resolvedBy (h : SameRegistry s t) {fs : List Frame} {v : Byte} {snap : DeviceStatus}
    (hres : ResolvedBy t fs k v snap) : ResolvedBy s fs k v snap := by
  obtain ⟨before, f, after, hfs, hslot, hsignal, hsnap⟩ := hres
  have hbefore := h.dispatchAll (kindChannel k) before
  rw [hbefore.slot, h.slot] at hslot
  rw [h.config, hbefore.status] at hsignal
  rw [(hbefore.dispatch (kindChannel k) f).status] at hsnap
  exact ⟨before, f, after, hfs, hslot, hsignal, hsnap⟩

protected theorem setRxbuf (s : State) (ch : Channel) (b : List Byte) : SameRegistry s (s.setRxbuf ch b) :=
  ⟨by simp, by simp, by simp⟩

protected theorem setInputs (s : State) (l : List Input) : SameRegistry s (s.setInputs l) :=
  ⟨rfl, rfl, by simp⟩

end SameRegistry

/-- Which frames an input brings does not depend on the inputs after it. -/
theorem framesBrought_setInputs (s : State) (l : List Input) (i : Instr) :
    framesBrought (s.setInputs l) i = framesBrought s i := by
  cases i <;> simp [framesBrought, framesOfMessage, rxEnabled]

/-- All an input that brings bytes on `ch` does to the wait of kind `k`. -/
theorem received_wait {i : Instr} {ch : Channel} (hr : receivedOn i = some ch) (hx : exec i s = .next t) (k : Kind) :
    WaitKept k s t ∨
      ∃ v snap, receivedOn i = some (kindChannel k) ∧ ResolvedBy s (framesBrought s i) k v snap ∧
        WaitEnds k (.success v snap) s t := by
  rcases received_cases hr s with ⟨_, heq⟩ | ⟨b, heq⟩ <;> rw [heq] at hx <;> cases hx
  · exact .inl (.refl k s)
  · have hstored : WaitKept k s (s.setRxbuf ch b) := .setRxbuf s ch b
    by_cases hch : kindChannel k = ch
    · subst hch
      rcases dispatchAll_wait k (framesBrought s i) (s.setRxbuf (kindChannel k) b) with hkept | ⟨v, snap, hres, hends⟩
      · exact .inl (hstored.trans hkept)
      · exact .inr ⟨v, snap, hr, (SameRegistry.setRxbuf s _ b).resolvedBy hres, hstored.trans_ends hends⟩
    · exact .inl (dispatchAll_keeps (P := WaitKept k s) (fun u f hu => hu.trans (dispatch_waitKept hch u f)) _ hstored)

/-! ### A step -/

/-- Why a wait of kind `k` with the deadline `d` ends in `e` where the input `inp` is the instruction `i` (R112). -/
def EndsBecause (s t : State) (inp : Input) (i : Instr) (k : Kind) (d : Word) (e : Ending) : Prop :=
  (∃ v snap, receivedOn i = some (kindChannel k) ∧ ResolvedBy s (framesBrought s i) k v snap ∧ e = .success v snap) ∨
    (i = .tick ∧ 0 ≤ (s.now + 1#32 - d).toInt ∧ e = .timeout) ∨
    (issuedKind i = some k ∧ inp.wrOk = false ∧ e = .superseded ∧ t.answers = s.answers ++ [.writeError]) ∨
    (i = .disconnect ∧ e = .cancelled ∧ t.answers = s.answers ++ [.ok])

/-- All that a step which takes `inp` as the instruction `i` can do to the wait of kind `k`. -/
inductive WaitMove (k : Kind) (s t : State) (inp : Input) (i : Instr) : Prop
  | kept (h : WaitKept k s t)
  | ended (e : Ending) (h : WaitEnds k e s t) (why : ∀ d g, s.slot k = .sent d g → EndsBecause s t inp i k d e)
  | renewed (h : WaitRenewed k s t) (hk : issuedKind i = some k) (hw : inp.wrOk = true)

theorem issue_waitMove {inp : Input} {i : Instr} (hd : decode inp = .instr i) (hi : issuedKind i = some j)
    (hx : exec i s = .next t) (k : Kind) : WaitMove k s t inp i := by
  obtain ⟨T, p, heq⟩ := decode_issue hd j hi s
  rw [heq] at hx
  cases hx
  by_cases hkj : k = j
  · subst hkj
    rcases issueCommand_wait k T p inp.wrOk s with hkept | ⟨hw, hends, hans⟩ | ⟨hw, hnew⟩
    · exact .kept hkept
    · exact .ended .superseded hends fun _ _ _ => .inr (.inr (.inl ⟨hi, hw, rfl, hans⟩))
    · exact .renewed hnew hi hw
  · exact .kept (issueCommand_waitKept hkj T p inp.wrOk s)

theorem received_waitMove {inp : Input} {i : Instr} {ch : Channel} (hr : receivedOn i = some ch)
    (hx : exec i s = .next t) (k : Kind) : WaitMove k s t inp i := by
  rcases received_wait hr hx k with hkept | ⟨v, snap, hon, hres, hends⟩
  · exact .kept hkept
  · exact .ended _ hends fun _ _ _ => .inl ⟨v, snap, hon, hres, rfl⟩

theorem exec_waitMove {inp : Input} {i : Instr} (hd : decode inp = .instr i) (hx : exec i s = .next t) (k : Kind) :
    WaitMove k s t inp i := by
  cases exec_cases hx with
  | connect => exact .kept (connectBlock_waitKept k s)
  | disconnect =>
    rcases disconnectBlock_wait k s with hkept | ⟨hends, hans⟩
    · exact .kept hkept
    · exact .ended .cancelled hends fun _ _ _ => .inr (.inr (.inr ⟨rfl, rfl, hans⟩))
  | send _ ch id p w => exact .kept (sendFrame_waitKept k ch id p w s)
  | issue _ j T p w hi => exact issue_waitMove hd hi hx k
  | snapshot => exact .kept (.answer s _)
  | illegal => exact .kept (.answer s _)
  | receive _ ch c hr => exact received_waitMove hr hx k
  | frame _ ch id p hr => exact received_waitMove hr hx k
  | error _ ch => exact .kept (receiveError_waitKept k ch s)
  | tick =>
    rcases tickTimer_wait k s with hkept | ⟨hends, hexp⟩
    · exact .kept hkept
    · exact .ended .timeout hends fun d g hslot => .inr (.inl ⟨rfl, (expired_iff _ _).1 (hexp d g hslot), rfl⟩)
  | ticks _ n => exact absurd rfl (decode_ne_ticks hd n)

/-- The inputs still to come play no part in what the next one does to a wait. -/
theorem WaitMove.of_setInputs {inp : Input} {i : Instr} {l : List Input} (h : WaitMove k (s.setInputs l) t inp i) :
    WaitMove k s t inp i := by
  have hkept : WaitKept k s (s.setInputs l) := .setInputs s l
  cases h with
  | kept h => exact .kept (hkept.trans h)
  | ended e h why =>
    refine .ended e (hkept.trans_ends h) fun d g hslot => ?_
    rcases why d g (hkept.slot.trans hslot) with ⟨v, snap, hon, hres, he⟩ | hrest
    · rw [framesBrought_setInputs] at hres
      exact .inl ⟨v, snap, hon, (SameRegistry.setInputs s l).resolvedBy hres, he⟩
    · exact .inr hrest
  | renewed h hk hw =>
    obtain ⟨hslot, hcompletions, hanswers⟩ := h
    exact .renewed ⟨hslot, by rwa [hkept.slot] at hcompletions, hanswers⟩ hk hw

/-- All that a step can do to the wait of kind `k`: leave it, end it, or put a new one in its place. -/
theorem step_wait (h : step s = .next t) (k : Kind) :
    WaitKept k s t ∨
      ∃ inp rest i, s.inputs = inp :: rest ∧ decode inp = .instr i ∧
        ((∃ e, WaitEnds k e s t ∧ ∀ d g, s.slot k = .sent d g → EndsBecause s t inp i k d e) ∨
          (WaitRenewed k s t ∧ issuedKind i = some k ∧ inp.wrOk = true)) := by
  rcases step_cases h with ⟨_, rfl⟩ | ⟨inp, rest, hin, ⟨_, rfl⟩ | ⟨_, rfl⟩ | ⟨i, hd, hx⟩⟩
  · exact .inl (.refl k t)
  · exact .inl ((WaitKept.setInputs s rest).trans (.answer _ _))
  · exact .inl (.setInputs s rest)
  · rcases (exec_waitMove hd hx k).of_setInputs with hkept | ⟨e, hends, why⟩ | ⟨hnew, hk, hw⟩
    · exact .inl hkept
    · exact .inr ⟨inp, rest, i, hin, hd, .inl ⟨e, hends, why⟩⟩
    · exact .inr ⟨inp, rest, i, hin, hd, .inr ⟨hnew, hk, hw⟩⟩

/-- The completions a step adds, from those there are before and after it. -/
theorem completionsOf_step (h : step s = .next t) {l : List (Half × Ending)}
    (hl : completionsOf k t.events = completionsOf k s.events ++ l) :
    completionsOf k (t.events.drop s.events.length) = l := by
  obtain ⟨evs, hevs⟩ := (step_onlyAdds h).events
  change s.events ++ evs = t.events at hevs
  rw [← hevs, completionsOf_append] at hl
  rw [← hevs, List.drop_left]
  exact List.append_cancel_left hl

end

/-- Settles O18: a step leaves a wait, ends it for one of R112's reasons, or renews it; each by the slot it starts from. -/
theorem slotsMoveOnlyAsTheStateMachineSays : Obligations.SlotsMoveOnlyAsTheStateMachineSays := by
  intro s t hstep k
  have added {l : List (Half × Ending)} := completionsOf_step (k := k) (l := l) hstep
  rcases step_wait hstep k with hkept | ⟨inp, rest, i, hin, hd, ⟨e, hends, why⟩ | ⟨hnew, hk, hw⟩⟩
  · have hnone := added (by rw [hkept.completions, List.append_nil])
    rw [hkept.slot]
    cases s.slot k with
    | idle => exact hnone
    | sent d g => exact .inl ⟨rfl, rfl, hnone⟩
  · have hone := added hends.completions
    rw [hends.slot]
    cases hs : s.slot k with
    | idle => rwa [hs] at hone
    | sent d g =>
      rw [hs] at hone
      exact ⟨inp, rest, i, e, hin, hd, hone, why d g hs⟩
  · have hone := added hnew.completions
    obtain ⟨d', hslot⟩ := hnew.slot
    rw [hslot]
    cases hs : s.slot k with
    | idle =>
      rw [hs] at hone
      exact ⟨hone, rfl, hnew.answers, inp, rest, i, hin, hd, hk, hw⟩
    | sent d g =>
      rw [hs] at hone
      exact .inr ⟨hone, rfl, hnew.answers, inp, rest, i, hin, hd, hk, hw⟩

end Sys2Proof.Machine

/-! # Ports (spec/20_memory.md): O24 -/

namespace Sys2Proof.Machine

/-! ## What the block transmits (R207, R502) -/

/-- If the event is a TxFrame, its bytes are the encoding of one frame within P_MAX. -/
def CarriesWholeFrame (t : CrcTable) : Event → Prop
  | .txFrame _ bytes => ∃ id p, p.length ≤ 4092 ∧ bytes = encodeFrame t id p
  | .completion _ _ _ | .statusChanged _ | .transportError _ => True

/-- Each frame transmitted from the event number `n` on is whole. -/
def WholeFramesFrom (t : CrcTable) (n : Nat) (s : State) : Prop := ∀ e ∈ s.events.drop n, CarriesWholeFrame t e

/-- A payload within P_MAX encodes to a whole frame. -/
theorem carriesWholeFrame_encodeFrame (t : CrcTable) (ch : Channel) (id : Byte) {p : List Byte} (hp : p.length ≤ pMax) :
    CarriesWholeFrame t (.txFrame ch (encodeFrame t id p)) := ⟨id, p, hp, rfl⟩

namespace WholeFramesFrom

variable {t : CrcTable} {n : Nat} {s u : State}

/-- From the end of the event stream on nothing has been transmitted yet. -/
theorem of_length_le (h : s.events.length ≤ n) : WholeFramesFrom t n s := by
  simp [WholeFramesFrom, List.drop_of_length_le h]

theorem of_events_append (h : WholeFramesFrom t n s) {added : List Event} (hevents : u.events = s.events ++ added)
    (hadded : ∀ e ∈ added, CarriesWholeFrame t e) : WholeFramesFrom t n u := by
  intro e he
  rw [hevents, List.drop_append, List.mem_append] at he
  rcases he with hold | hnew
  · exact h e hold
  · exact hadded e (List.mem_of_mem_drop hnew)

theorem of_events_eq (h : WholeFramesFrom t n s) (hevents : u.events = s.events) : WholeFramesFrom t n u :=
  h.of_events_append (added := []) (by simp [hevents]) (by simp)

protected theorem emit (h : WholeFramesFrom t n s) {e : Event} (he : CarriesWholeFrame t e) :
    WholeFramesFrom t n (s.emit e) :=
  h.of_events_append rfl fun _ hmem => List.eq_of_mem_singleton hmem ▸ he

protected theorem answer (h : WholeFramesFrom t n s) (a : Answer) : WholeFramesFrom t n (s.answer a) := h.of_events_eq rfl

/-! ### Waits and the timer -/

protected theorem finishWait (h : WholeFramesFrom t n s) (k : Kind) (e : Ending) :
    WholeFramesFrom t n (finishWait k e s) := by
  rcases finishWait_cases k e s with ⟨_, heq⟩ | ⟨_, g, _, heq⟩ <;> rw [heq]
  · exact h
  · exact (h.emit (e := .completion k g e) trivial).of_events_eq (by simp)

protected theorem tickTimer (h : WholeFramesFrom t n s) : WholeFramesFrom t n (tickTimer s) := by
  refine forEachKind_keeps (fun k v hv => ?_) (h.of_events_eq rfl)
  rcases expireWait_cases k v with ⟨heq, _⟩ | ⟨_, _, _, _, heq⟩ <;> rw [heq]
  · exact hv
  · exact hv.finishWait k .timeout

/-! ### Received frames -/

protected theorem updateStatus (h : WholeFramesFrom t n s) (d : DeviceStatus) : WholeFramesFrom t n (updateStatus d s) := by
  refine h.of_events_append (updateStatus_events d s) ?_
  split <;> simp [CarriesWholeFrame]

protected theorem dispatch (h : WholeFramesFrom t n s) (ch : Channel) (f : Frame) :
    WholeFramesFrom t n (dispatch ch s f) := by
  rcases dispatch_cases ch s f with ⟨_, heq⟩ | ⟨e, _, heq⟩ <;> rw [heq]
  · exact h
  · rcases resolveSignal_cases e.signal (updateStatus e.status s) with ⟨_, hsignal⟩ | ⟨k, v, _, hsignal⟩ <;> rw [hsignal]
    · exact h.updateStatus e.status
    · exact (h.updateStatus e.status).finishWait k _

protected theorem receive (h : WholeFramesFrom t n s) (ch : Channel) (c : List Byte) :
    WholeFramesFrom t n (receive ch c s) :=
  receive_keeps (fun _ f hd => hd.dispatch ch f) c (h.of_events_eq (by simp)) h

protected theorem receiveFrame (h : WholeFramesFrom t n s) (ch : Channel) (id : Byte) (p : List Byte) :
    WholeFramesFrom t n (receiveFrame ch id p s) := by
  rcases receiveFrame_cases ch id p s with ⟨_, heq⟩ | ⟨_, heq⟩ <;> rw [heq]
  · exact h
  · exact receiveStep_keeps (fun _ f hd => hd.dispatch ch f) _ (h.of_events_eq (by simp))

protected theorem receiveError (h : WholeFramesFrom t n s) (ch : Channel) : WholeFramesFrom t n (receiveError ch s) := by
  rcases receiveError_cases ch s with ⟨_, heq⟩ | ⟨_, heq⟩ <;> rw [heq]
  · exact h.emit trivial
  · exact h

/-! ### The host commands -/

protected theorem connectBlock (h : WholeFramesFrom t n s) : WholeFramesFrom t n (connectBlock s) := by
  rcases connectBlock_cases s with ⟨_, heq⟩ | ⟨_, heq⟩ <;> rw [heq] <;> exact h.of_events_eq (by simp)

protected theorem disconnectBlock (h : WholeFramesFrom t n s) : WholeFramesFrom t n (disconnectBlock s) := by
  rcases disconnectBlock_cases s with ⟨_, heq⟩ | ⟨_, heq⟩ <;> rw [heq]
  · exact h.answer _
  · have hstopped : WholeFramesFrom t n (((s.setConnected false).setRxbuf .data []).setRxbuf .cmd []) :=
      h.of_events_eq (by simp)
    exact ((forEachKind_keeps (fun k _ hk => hk.finishWait k .cancelled) hstopped).updateStatus _).answer _

/-- SEND checks P_MAX before it encodes (R903). -/
protected theorem sendFrame (h : WholeFramesFrom s.config.crcTable n s) (ch : Channel) (id : Byte) (p : List Byte)
    (w : Bool) : WholeFramesFrom s.config.crcTable n (sendFrame ch id p w s) := by
  rcases sendFrame_cases ch id p w s with ⟨_, heq⟩ | ⟨_, _, heq⟩ | ⟨hp, _, heq⟩ <;> rw [heq]
  · exact h.answer _
  · exact h.answer _
  · exact (h.emit (carriesWholeFrame_encodeFrame _ ch id hp)).answer _

/-- ISSUE checks P_MAX before it encodes (R801, R1004). -/
protected theorem issueCommand (h : WholeFramesFrom s.config.crcTable n s) (k : Kind) (T : Word) (p : List Byte)
    (w : Bool) : WholeFramesFrom s.config.crcTable n (issueCommand k T p w s) := by
  have hwritten (hp : p.length ≤ pMax) :=
    (h.finishWait k .superseded).emit (carriesWholeFrame_encodeFrame _ (kindChannel k) (kindMessageId k) hp)
  rcases issueCommand_cases k T p w s with
    ⟨_, heq⟩ | ⟨_, _, heq⟩ | ⟨_, _, _, heq⟩ | ⟨_, hp, _, _, heq⟩ | ⟨_, hp, _, _, heq⟩ <;> rw [heq]
  · exact h.answer _
  · exact h.answer _
  · exact h.answer _
  · exact (hwritten hp).of_events_eq (by simp [registerWait_eq])
  · exact (hwritten hp).answer _

end WholeFramesFrom

/-- No instruction transmits anything but whole frames, encoded with the table of the state it starts from. -/
theorem Action.wholeFramesFrom {i : Instr} {n : Nat} {s u : State} (h : Action i s u)
    (hs : WholeFramesFrom s.config.crcTable n s) : WholeFramesFrom s.config.crcTable n u := by
  cases h with
  | connect => exact hs.connectBlock
  | disconnect => exact hs.disconnectBlock
  | send _ ch id p w => exact hs.sendFrame ch id p w
  | issue _ k T p w => exact hs.issueCommand k T p w
  | snapshot => exact hs.answer _
  | illegal => exact hs.answer _
  | receive _ ch c => exact hs.receive ch c
  | frame _ ch id p => exact hs.receiveFrame ch id p
  | error _ ch => exact hs.receiveError ch
  | tick => exact hs.tickTimer
  | ticks _ m => exact tickTimes_keeps (fun _ hv => hv.tickTimer) m hs

/-- The frames a step transmits are whole. -/
theorem step_wholeFramesFrom {s u : State} (h : step s = .next u) :
    WholeFramesFrom s.config.crcTable s.events.length u := by
  have hs : WholeFramesFrom s.config.crcTable s.events.length s := .of_length_le le_rfl
  rcases step_cases h with ⟨_, rfl⟩ | ⟨inp, rest, _, hcase⟩
  · exact hs
  · have hrest : WholeFramesFrom s.config.crcTable s.events.length (s.setInputs rest) := hs.of_events_eq rfl
    rcases hcase with ⟨_, rfl⟩ | ⟨_, rfl⟩ | ⟨i, _, hexec⟩
    · exact hrest.answer _
    · exact hrest
    · exact (exec_cases hexec).wholeFramesFrom hrest

/-- Settles O24: only SEND and ISSUE transmit, each one encoded frame and only where its payload passed the check of P_MAX. -/
theorem onlyWholeFramesAreTransmitted : Obligations.OnlyWholeFramesAreTransmitted :=
  fun _ _ hstep ch bytes hmem => step_wholeFramesFrom hstep (.txFrame ch bytes) hmem

end Sys2Proof.Machine

/-! # Encoding (spec/30_encoding.md): O2, O3, O4, O42, O58, O1, O5 -/

namespace Sys2Proof

/-! ## What the decoder reads, by port -/

theorem decode_host (w : Word) (tail : List Byte) (wr : Bool) :
    decode { port := .host, bytes := wordBytes w ++ tail, wrOk := wr } = decodeHost w tail wr :=
  decodeWords_wordBytes (fun w tail => decodeHost w tail wr) w tail

theorem decode_transport (w : Word) (tail : List Byte) (wr : Bool) :
    decode { port := .transport, bytes := wordBytes w ++ tail, wrOk := wr } = decodeTransport w tail :=
  decodeWords_wordBytes decodeTransport w tail

theorem decode_timer (w : Word) (tail : List Byte) (wr : Bool) :
    decode { port := .timer, bytes := wordBytes w ++ tail, wrOk := wr } = decodeTimer w tail :=
  decodeWords_wordBytes decodeTimer w tail

/-- An instruction read from a port that carries words is read from a header word and what follows it. -/
theorem decodeWords_eq_instr {read : Word → List Byte → Decoded} {bytes : List Byte} {i : Instr}
    (h : decodeWords read bytes = .instr i) : ∃ w tail, bytes = wordBytes w ++ tail ∧ read w tail = .instr i := by
  unfold decodeWords at h
  split at h
  · next b0 b1 b2 b3 tail => exact ⟨wordOf b0 b1 b2 b3, tail, by simp [wordBytes_wordOf], h⟩
  · cases h

@[inherit_doc decodeWords_eq_instr]
theorem decodeFrame_eq_instr {read : Byte → List Byte → Decoded} {bytes : List Byte} {i : Instr}
    (h : decodeFrame read bytes = .instr i) : ∃ id tail, bytes = id :: tail ∧ read id tail = .instr i := by
  unfold decodeFrame at h
  split at h
  · exact ⟨_, _, rfl, h⟩
  · cases h

theorem alone_eq_instr {tail : List Byte} {i j : Instr} : alone tail i = .instr j ↔ tail = [] ∧ i = j := by
  unfold alone; split <;> simp [*]

theorem reservedOp_eq_instr {tail : List Byte} {i j : Instr} : reservedOp tail i = .instr j ↔ tail = [] ∧ i = j := by
  unfold reservedOp; split <;> simp [*]

/-- The bytes behind the id of a frame that an ISSUE sends are its TIMEOUT word and its payload. -/
theorem decodeTxIssue_eq_instr {tail : List Byte} {mk : Word → List Byte → Instr} {i : Instr} :
    decodeTxIssue tail mk = .instr i ↔ ∃ t p, tail = wordBytes t ++ p ∧ p.length ≤ plenMax ∧ mk t p = i := by
  constructor
  · intro h
    unfold decodeTxIssue at h
    split at h
    · next b0 b1 b2 b3 p =>
      split at h
      · next hp => exact ⟨wordOf b0 b1 b2 b3, p, by simp [wordBytes_wordOf], hp, by simpa using h⟩
      · cases h
    · cases h
  · rintro ⟨t, p, rfl, hp, rfl⟩
    simp [decodeTxIssue, wordBytes, wordOf_wordBytes, hp]

/-! ## Header words -/

/-- A word is the header word of its fields. -/
theorem headerWord_of_fields {w : Word} {op : BitVec 4} {ch : BitVec 1} {kind : BitVec 2} {rsv : BitVec 1} {msgId : Byte}
    {plen : Half} (hop : (headerOf w).op = op) (hch : (headerOf w).ch = ch) (hkind : (headerOf w).kind = kind)
    (hrsv : (headerOf w).rsv = rsv) (hid : (headerOf w).msgId = msgId) (hplen : (headerOf w).plen = plen) :
    headerWord { op := op, ch := ch, kind := kind, rsv := rsv, msgId := msgId, plen := plen } = w := by
  rw [← hop, ← hch, ← hkind, ← hrsv, ← hid, ← hplen]
  exact headerWord_headerOf w

/-- Bit 7 is among the bits a command without operands leaves 0. -/
theorem restOf_ne_zero_of_rsv {w : Word} (h : (headerOf w).rsv = 1#1) : restOf w ≠ 0#28 := by
  intro hr
  have hbit : (restOf w).extractLsb' 3 1 = (headerOf w).rsv := by
    apply BitVec.eq_of_getLsbD_eq
    intro n hn
    have hpos : 4 + (3 + n) = 7 + n := by omega
    simp [restOf, headerOf, hn, hpos]
    omega
  rw [hr, h] at hbit
  exact absurd hbit (by decide)

/-- A length that fits PLEN reads back. -/
theorem plen_toNat {p : List Byte} (h : p.length ≤ plenMax) : (BitVec.ofNat 16 p.length).toNat = p.length := by
  unfold plenMax at h
  simp
  omega

/-! ## The OPs of the host port (R311, R315) -/

/-- The OPs a host command cannot have: the reserved ones and the environment's. -/
def reservedOps : List (BitVec 4) := [0x0#4, 0x6#4, 0x7#4, 0x8#4, 0x9#4, 0xA#4, 0xB#4, 0xC#4, 0xD#4, 0xE#4, 0xF#4]

theorem mem_reservedOps_iff : ∀ op : BitVec 4, op ∈ reservedOps ↔ op = 0#4 ∨ 6#4 ≤ op := by decide

/-- The OPs of the commands without operands: CONNECT, DISCONNECT and SNAPSHOT. -/
def bareOps : List (BitVec 4) := [0x1#4, 0x2#4, 0x5#4]

/-- Every OP is a reserved one or that of one of the five commands. -/
theorem op_cases : ∀ op : BitVec 4, op ∈ reservedOps ∨ op ∈ bareOps ∨ op = 3#4 ∨ op = 4#4 := by decide

/-- The command of an OP without operands. -/
def bareInstr (op : BitVec 4) : Instr :=
  match op.toNat with
  | 1 => .connect
  | 2 => .disconnect
  | _ => .snapshot

theorem encode_bareInstr {op : BitVec 4} (h : op ∈ bareOps) :
    encode (bareInstr op) = [hostInput (opWord 0#28 op) [] true] := by
  fin_cases h <;> rfl

/-- The row of a reserved OP. -/
def reservedInstr (op : BitVec 4) (rest : BitVec 28) : Instr :=
  match op.toNat with
  | 0 => .illegalOp0 rest
  | 6 => .illegalOp6 rest
  | 7 => .illegalOp7 rest
  | 8 => .illegalOp8 rest
  | 9 => .illegalOp9 rest
  | 10 => .illegalOpA rest
  | 11 => .illegalOpB rest
  | 12 => .illegalOpC rest
  | 13 => .illegalOpD rest
  | 14 => .illegalOpE rest
  | _ => .illegalOpF rest

theorem encode_reservedInstr {op : BitVec 4} (h : op ∈ reservedOps) (r : BitVec 28) :
    encode (reservedInstr op r) = [hostInput (opWord r op) [] true] := by
  fin_cases h <;> rfl

/-! ## Host commands (R310, R311) -/

section

variable {w : Word} {tail : List Byte} {wr : Bool}

theorem decodeHost_reserved (h : (headerOf w).op ∈ reservedOps) :
    decodeHost w tail wr = reservedOp tail (reservedInstr (headerOf w).op (restOf w)) := by
  simp only [decodeHost, reservedInstr]
  generalize (headerOf w).op = op at h ⊢
  fin_cases h <;> rfl

theorem decodeHost_bare (h : (headerOf w).op ∈ bareOps) :
    decodeHost w tail wr = if restOf w = 0#28 then alone tail (bareInstr (headerOf w).op) else .illegal := by
  simp only [decodeHost, bareInstr]
  generalize (headerOf w).op = op at h ⊢
  fin_cases h <;> rfl

theorem decodeHost_send (h : (headerOf w).op = 3#4) :
    decodeHost w tail wr =
      if (headerOf w).kind = 0#2 ∧ (headerOf w).rsv = 0#1 then
        if tail.length = (headerOf w).plen.toNat then
          .instr (.send (channelOf (headerOf w).ch) (headerOf w).msgId tail wr)
        else .malformed
      else .illegal := by
  simp [decodeHost, h]

theorem decodeHost_issue_illegal (h : (headerOf w).op = 4#4)
    (hused : ¬ ((headerOf w).ch = 0#1 ∧ (headerOf w).rsv = 0#1 ∧ (headerOf w).msgId = 0#8)) :
    decodeHost w tail wr = .illegal := by
  simp only [decodeHost, h]
  exact if_neg hused

/-- An ISSUE is read where its unused fields are 0, from a TIMEOUT word and a payload of the length PLEN. -/
theorem decodeHost_issue_eq_instr {i : Instr} (h : (headerOf w).op = 4#4) :
    decodeHost w tail wr = .instr i ↔
      ((headerOf w).ch = 0#1 ∧ (headerOf w).rsv = 0#1 ∧ (headerOf w).msgId = 0#8) ∧
        ∃ t p, tail = wordBytes t ++ p ∧ p.length = (headerOf w).plen.toNat ∧
          .issue (kindOf (headerOf w).kind) t p wr = i := by
  by_cases hunused : (headerOf w).ch = 0#1 ∧ (headerOf w).rsv = 0#1 ∧ (headerOf w).msgId = 0#8
  · constructor
    · intro hd
      have hop : (4#4).toNat = 4 := rfl
      simp only [decodeHost, h, hop, hunused, and_self, if_true] at hd
      split at hd
      · next b0 b1 b2 b3 p =>
        split at hd
        · next hp => exact ⟨hunused, wordOf b0 b1 b2 b3, p, by simp [wordBytes_wordOf], hp, by simpa using hd⟩
        · cases hd
      · cases hd
    · rintro ⟨_, t, p, rfl, hp, rfl⟩
      simp [decodeHost, h, hunused, wordBytes, wordOf_wordBytes, hp]
  · simp [decodeHost_issue_illegal h hunused, hunused]

end

/-! ## Environment inputs (R311, R313) -/

section

variable {w : Word} {tail : List Byte}

theorem decodeTransport_rx (h : (headerOf w).op = 8#4) :
    decodeTransport w tail =
      if (headerOf w).kind = 0#2 ∧ (headerOf w).rsv = 0#1 ∧ (headerOf w).msgId = 0#8 then
        if tail.length = (headerOf w).plen.toNat then .instr (.rx (channelOf (headerOf w).ch) tail) else .malformed
      else .dropped := by
  simp [decodeTransport, h]

theorem decodeTransport_rxErr (h : (headerOf w).op = 9#4) :
    decodeTransport w tail =
      if (headerOf w).kind = 0#2 ∧ (headerOf w).rsv = 0#1 ∧ (headerOf w).msgId = 0#8 ∧ (headerOf w).plen = 0#16 then
        alone tail (.rxErr (channelOf (headerOf w).ch))
      else .dropped := by
  simp [decodeTransport, h]

theorem decodeTransport_of_ne (h8 : (headerOf w).op ≠ 8#4) (h9 : (headerOf w).op ≠ 9#4) :
    decodeTransport w tail = .dropped := by
  simp only [decodeTransport]
  split
  · next h => exact absurd (BitVec.eq_of_toNat_eq (y := 8#4) h) h8
  · next h => exact absurd (BitVec.eq_of_toNat_eq (y := 9#4) h) h9
  · rfl

end

/-! ## The encoding an input has -/

/-- The instruction is encoded as one input, on this port and with these bytes. -/
def EncodesAs (i : Instr) (port : Port) (bytes : List Byte) : Prop :=
  ∃ j, encode i = [j] ∧ j.port = port ∧ j.bytes = bytes

/-- A transaction that is a header word alone. -/
theorem EncodesAs.of_opWord {i : Instr} {w : Word} {tail : List Byte} {r : BitVec 28}
    (hi : encode i = [hostInput (opWord r (headerOf w).op) [] true]) (hr : restOf w = r) (htail : tail = []) :
    EncodesAs i .host (wordBytes w ++ tail) :=
  ⟨_, hi, rfl, by rw [htail, ← hr, opWord_restOf]; rfl⟩

/-- A chunk or payload of the length PLEN gives the field back. -/
theorem plen_eq_ofNat {h : Header} {p : List Byte} (hp : p.length = h.plen.toNat) :
    h.plen = BitVec.ofNat 16 p.length := by
  simp [hp]

section

variable {w : Word} {tail : List Byte} {i : Instr}

theorem decodeHost_encodesAs {wr : Bool} (h : decodeHost w tail wr = .instr i) :
    EncodesAs i .host (wordBytes w ++ tail) := by
  rcases op_cases (headerOf w).op with hop | hop | hop | hop
  · rw [decodeHost_reserved hop] at h
    obtain ⟨htail, rfl⟩ := reservedOp_eq_instr.1 h
    exact .of_opWord (encode_reservedInstr hop _) rfl htail
  · rw [decodeHost_bare hop] at h
    split at h
    · next hr =>
      obtain ⟨htail, rfl⟩ := alone_eq_instr.1 h
      exact .of_opWord (encode_bareInstr hop) hr htail
    · cases h
  · rw [decodeHost_send hop] at h
    split at h
    · next hunused =>
      obtain ⟨hkind, hrsv⟩ := hunused
      split at h
      · next hp =>
        cases h
        have hw := headerWord_of_fields hop (channelBit_channelOf _).symm hkind hrsv rfl (plen_eq_ofNat hp)
        exact ⟨_, rfl, rfl, congrArg (wordBytes · ++ tail) hw⟩
      · cases h
    · cases h
  · obtain ⟨⟨hch, hrsv, hid⟩, t, p, rfl, hp, rfl⟩ := (decodeHost_issue_eq_instr hop).1 h
    have hw := headerWord_of_fields hop hch (kindBits_kindOf _).symm hrsv hid (plen_eq_ofNat hp)
    exact ⟨_, rfl, rfl, congrArg (wordBytes · ++ (wordBytes t ++ p)) hw⟩

theorem decodeTransport_encodesAs (h : decodeTransport w tail = .instr i) :
    EncodesAs i .transport (wordBytes w ++ tail) := by
  by_cases h8 : (headerOf w).op = 8#4
  · rw [decodeTransport_rx h8] at h
    split at h
    · next hunused =>
      obtain ⟨hkind, hrsv, hid⟩ := hunused
      split at h
      · next hp =>
        cases h
        have hw := headerWord_of_fields h8 (channelBit_channelOf _).symm hkind hrsv hid (plen_eq_ofNat hp)
        exact ⟨_, rfl, rfl, congrArg (wordBytes · ++ tail) hw⟩
      · cases h
    · cases h
  · by_cases h9 : (headerOf w).op = 9#4
    · rw [decodeTransport_rxErr h9] at h
      split at h
      · next hunused =>
        obtain ⟨hkind, hrsv, hid, hplen⟩ := hunused
        obtain ⟨rfl, rfl⟩ := alone_eq_instr.1 h
        have hw := headerWord_of_fields h9 (channelBit_channelOf _).symm hkind hrsv hid hplen
        exact ⟨_, rfl, rfl, congrArg (wordBytes · ++ []) hw⟩
      · cases h
    · rw [decodeTransport_of_ne h8 h9] at h
      cases h

theorem decodeTimer_encodesAs (h : decodeTimer w tail = .instr i) : EncodesAs i .timer (wordBytes w ++ tail) := by
  unfold decodeTimer at h
  split at h
  · next hw =>
    obtain ⟨hop, hr⟩ := hw
    obtain ⟨htail, rfl⟩ := alone_eq_instr.1 h
    exact ⟨tickInput, rfl, rfl, by rw [htail, ← opWord_restOf w, hop, hr]; rfl⟩
  · cases h

end

/-- A received frame's row is encoded as its frame, listed or not. -/
theorem encode_rxInstr (ch : Channel) (id : Byte) (p : List Byte) : encode (rxInstr ch id p) = [rxFrameInput ch id p] := by
  cases ch with
  | data =>
    by_cases hstatus : id = 0x61#8
    · rw [hstatus]; rfl
    by_cases hack : id = 0x42#8
    · rw [hack]; rfl
    simp only [rxInstr, hstatus, hack, if_false]
    rfl
  | cmd =>
    by_cases htest : id = 0x01#8
    · rw [htest]; rfl
    simp only [rxInstr, htest, if_false]
    rfl

theorem rxInstr_of_not_listed {ch : Channel} {id : Byte} (h : listed ch id = false) (p : List Byte) :
    rxInstr ch id p = .rxOther ch id p := by
  cases ch with
  | data =>
    simp only [listed, Bool.or_eq_false_iff, beq_eq_false_iff_ne] at h
    obtain ⟨hstatus, hack⟩ := h
    simp only [rxInstr, hstatus, hack, if_false]
  | cmd =>
    simp only [listed, beq_eq_false_iff_ne] at h
    simp only [rxInstr, h, if_false]

theorem decodeTxIssue_encodesAs {ch : Channel} {id : Byte} {tail : List Byte} {wr : Bool}
    {mk : Word → List Byte → Instr} {i : Instr} (hmk : ∀ t p, encode (mk t p) = [txIssueInput ch id t p wr])
    (h : decodeTxIssue tail mk = .instr i) : EncodesAs i (.txFrame ch) (id :: tail) := by
  obtain ⟨t, p, rfl, _, rfl⟩ := decodeTxIssue_eq_instr.1 h
  exact ⟨_, hmk t p, rfl, rfl⟩

theorem decodeTxFrame_encodesAs {ch : Channel} {id : Byte} {tail : List Byte} {wr : Bool} {i : Instr}
    (h : decodeTxFrame ch id tail wr = .instr i) : EncodesAs i (.txFrame ch) (id :: tail) := by
  cases ch with
  | data =>
    simp only [decodeTxFrame] at h
    split at h
    · next hid => subst hid; exact decodeTxIssue_encodesAs (fun _ _ => rfl) h
    split at h
    · next hid => subst hid; exact decodeTxIssue_encodesAs (fun _ _ => rfl) h
    split at h
    · next hid => subst hid; exact decodeTxIssue_encodesAs (fun _ _ => rfl) h
    split at h
    · next hid =>
      split at h
      · cases h; exact ⟨_, rfl, rfl, by rw [hid]⟩
      · cases h
    · cases h
  | cmd =>
    simp only [decodeTxFrame] at h
    split at h
    · next hid => subst hid; exact decodeTxIssue_encodesAs (fun _ _ => rfl) h
    · cases h

theorem decodeRxFrame_encodesAs {ch : Channel} {id : Byte} {p : List Byte} {i : Instr}
    (h : decodeRxFrame ch id p = .instr i) : EncodesAs i (.rxFrame ch) (id :: p) := by
  unfold decodeRxFrame at h
  split at h
  · cases h
    exact ⟨_, encode_rxInstr ch id p, rfl, rfl⟩
  · cases h

theorem decode_encodesAs {inp : Input} {i : Instr} (h : decode inp = .instr i) : EncodesAs i inp.port inp.bytes := by
  obtain ⟨port, bytes, wr⟩ := inp
  cases port <;> simp only [decode] at h
  case host =>
    obtain ⟨w, tail, rfl, hread⟩ := decodeWords_eq_instr h
    exact decodeHost_encodesAs hread
  case transport =>
    obtain ⟨w, tail, rfl, hread⟩ := decodeWords_eq_instr h
    exact decodeTransport_encodesAs hread
  case timer =>
    obtain ⟨w, tail, rfl, hread⟩ := decodeWords_eq_instr h
    exact decodeTimer_encodesAs hread
  case rxFrame ch =>
    obtain ⟨id, p, rfl, hread⟩ := decodeFrame_eq_instr h
    exact decodeRxFrame_encodesAs hread
  case txFrame ch =>
    obtain ⟨id, tail, rfl, hread⟩ := decodeFrame_eq_instr h
    exact decodeTxFrame_encodesAs hread

/-- Settles O3: what a port's decoder reads fixes every field of the header word, so the encoder writes the same bytes. -/
theorem decodedBytesEncodeBack : Obligations.DecodedBytesEncodeBack :=
  fun _ _ h => ⟨(decode_core h).1, decode_encodesAs h⟩

/-! ## Decoding an encoded input -/

theorem decode_reserved {op : BitVec 4} (h : op ∈ reservedOps) (r : BitVec 28) :
    decode (hostInput (opWord r op) [] true) = .instr (reservedInstr op r) := by
  have hop := headerOf_opWord_op r op
  calc decode (hostInput (opWord r op) [] true) = decodeHost (opWord r op) [] true := decode_host _ _ _
    _ = reservedOp [] (reservedInstr op r) := by rw [decodeHost_reserved (hop.symm ▸ h), hop, restOf_opWord]
    _ = .instr (reservedInstr op r) := rfl

theorem decode_bare {op : BitVec 4} (h : op ∈ bareOps) :
    decode (hostInput (opWord 0#28 op) [] true) = .instr (bareInstr op) := by
  have hop := headerOf_opWord_op 0#28 op
  calc decode (hostInput (opWord 0#28 op) [] true) = decodeHost (opWord 0#28 op) [] true := decode_host _ _ _
    _ = alone [] (bareInstr op) := by rw [decodeHost_bare (hop.symm ▸ h), hop, restOf_opWord, if_pos rfl]
    _ = .instr (bareInstr op) := rfl

theorem decode_sendInput (ch : Channel) (id : Byte) {p : List Byte} (hp : p.length ≤ plenMax) (wr : Bool) :
    decode (sendInput ch id p wr) = .instr (.send ch id p wr) := by
  unfold sendInput hostInput
  rw [decode_host, decodeHost_send (by rw [headerOf_headerWord])]
  simp [headerOf_headerWord, plen_toNat hp]

theorem decode_issueInput (k : Kind) (t : Word) {p : List Byte} (hp : p.length ≤ plenMax) (wr : Bool) :
    decode (issueInput k t p wr) = .instr (.issue k t p wr) := by
  unfold issueInput hostInput
  rw [decode_host, decodeHost_issue_eq_instr (by rw [headerOf_headerWord]), headerOf_headerWord]
  exact ⟨⟨rfl, rfl, rfl⟩, t, p, rfl, (plen_toNat hp).symm, by rw [kindOf_kindBits]⟩

theorem decode_rxFrameInput (ch : Channel) (id : Byte) {p : List Byte} (hp : p.length ≤ pMax) :
    decode (rxFrameInput ch id p) = .instr (rxInstr ch id p) :=
  if_pos hp

theorem decode_tickInput : decode tickInput = .instr .tick := by decide

/-- The inputs the instruction is encoded as decode to the core instructions it stands for. -/
def DecodesToExpansion (i : Instr) : Prop := (encode i).map decode = i.expand.map Decoded.instr

/-- An instruction of one input that expands to one core instruction. -/
theorem DecodesToExpansion.of_single {i j : Instr} {inp : Input} (he : encode i = [inp]) (hx : i.expand = [j])
    (hd : decode inp = .instr j) : DecodesToExpansion i := by
  simp [DecodesToExpansion, he, hx, hd]

theorem rx_decodesToExpansion (ch : Channel) {c : List Byte} (hc : c.length ≤ plenMax) :
    DecodesToExpansion (.rx ch c) := by
  refine .of_single rfl rfl ?_
  rw [decode_transport, decodeTransport_rx (by rw [headerOf_headerWord])]
  simp [headerOf_headerWord, plen_toNat hc]

theorem rxErr_decodesToExpansion (ch : Channel) : DecodesToExpansion (.rxErr ch) := by
  refine .of_single rfl rfl ?_
  rw [← List.append_nil (wordBytes _), decode_transport, decodeTransport_rxErr (by rw [headerOf_headerWord])]
  simp [headerOf_headerWord, alone]

/-- A row of the transmit catalogue that an ISSUE sends: `hmk` ties the row to its channel and id. -/
theorem txIssue_decodesToExpansion {ch : Channel} {id : Byte} {t : Word} {p : List Byte} {wr : Bool}
    {mk : Word → List Byte → Instr} (he : encode (mk t p) = [txIssueInput ch id t p wr]) (hx : (mk t p).expand = [mk t p])
    (hmk : ∀ tail, decodeTxFrame ch id tail wr = decodeTxIssue tail mk) (hp : p.length ≤ plenMax) :
    DecodesToExpansion (mk t p) :=
  .of_single he hx ((hmk _).trans (decodeTxIssue_eq_instr.2 ⟨t, p, rfl, hp, rfl⟩))

theorem decodesToExpansion_of_wf {i : Instr} (h : i.wf = true) : DecodesToExpansion i := by
  have hone (b : Byte) : [b].length ≤ plenMax := by simp [plenMax]
  cases i with
  | connect => exact .of_single rfl rfl (decode_bare (op := 1#4) (by decide))
  | disconnect => exact .of_single rfl rfl (decode_bare (op := 2#4) (by decide))
  | snapshot => exact .of_single rfl rfl (decode_bare (op := 5#4) (by decide))
  | send ch id p wr => exact .of_single rfl rfl (decode_sendInput ch id (of_decide_eq_true h) wr)
  | issue k t p wr => exact .of_single rfl rfl (decode_issueInput k t (of_decide_eq_true h) wr)
  | illegalOp0 r => exact .of_single rfl rfl (decode_reserved (op := 0x0#4) (by decide) r)
  | illegalOp6 r => exact .of_single rfl rfl (decode_reserved (op := 0x6#4) (by decide) r)
  | illegalOp7 r => exact .of_single rfl rfl (decode_reserved (op := 0x7#4) (by decide) r)
  | illegalOp8 r => exact .of_single rfl rfl (decode_reserved (op := 0x8#4) (by decide) r)
  | illegalOp9 r => exact .of_single rfl rfl (decode_reserved (op := 0x9#4) (by decide) r)
  | illegalOpA r => exact .of_single rfl rfl (decode_reserved (op := 0xA#4) (by decide) r)
  | illegalOpB r => exact .of_single rfl rfl (decode_reserved (op := 0xB#4) (by decide) r)
  | illegalOpC r => exact .of_single rfl rfl (decode_reserved (op := 0xC#4) (by decide) r)
  | illegalOpD r => exact .of_single rfl rfl (decode_reserved (op := 0xD#4) (by decide) r)
  | illegalOpE r => exact .of_single rfl rfl (decode_reserved (op := 0xE#4) (by decide) r)
  | illegalOpF r => exact .of_single rfl rfl (decode_reserved (op := 0xF#4) (by decide) r)
  | rx ch c => exact rx_decodesToExpansion ch (of_decide_eq_true h)
  | rxErr ch => exact rxErr_decodesToExpansion ch
  | tick => exact .of_single rfl rfl decode_tickInput
  | rxStatus p => exact .of_single rfl rfl (decode_rxFrameInput .data 0x61#8 (of_decide_eq_true h))
  | rxAck p => exact .of_single rfl rfl (decode_rxFrameInput .data 0x42#8 (of_decide_eq_true h))
  | rxTestResult p => exact .of_single rfl rfl (decode_rxFrameInput .cmd 0x01#8 (of_decide_eq_true h))
  | rxOther ch id p =>
    simp only [Instr.wf, Bool.and_eq_true, decide_eq_true_eq, Bool.not_eq_true'] at h
    obtain ⟨hp, hlisted⟩ := h
    exact .of_single rfl rfl (rxInstr_of_not_listed hlisted p ▸ decode_rxFrameInput ch id hp)
  | txNoise t p wr =>
    exact txIssue_decodesToExpansion (mk := (.txNoise · · wr)) rfl rfl (fun _ => rfl) (of_decide_eq_true h)
  | txAncLevel t p wr =>
    exact txIssue_decodesToExpansion (mk := (.txAncLevel · · wr)) rfl rfl (fun _ => rfl) (of_decide_eq_true h)
  | txAmbientLevel t p wr =>
    exact txIssue_decodesToExpansion (mk := (.txAmbientLevel · · wr)) rfl rfl (fun _ => rfl) (of_decide_eq_true h)
  | txTestConn t p wr =>
    exact txIssue_decodesToExpansion (mk := (.txTestConn · · wr)) rfl rfl (fun _ => rfl) (of_decide_eq_true h)
  | txStatusRequest p wr => exact .of_single rfl rfl (if_pos (of_decide_eq_true h))
  | setNoise b t wr => exact .of_single rfl rfl (decode_issueInput .noise t (hone b) wr)
  | setAnc b t wr => exact .of_single rfl rfl (decode_issueInput .ancLevel t (hone b) wr)
  | setAmbient b t wr => exact .of_single rfl rfl (decode_issueInput .ambientLevel t (hone b) wr)
  | testConn t wr => exact .of_single rfl rfl (decode_issueInput .testConn t (p := []) (Nat.zero_le _) wr)
  | reqStatus wr => exact .of_single rfl rfl (decode_sendInput .data 0x61#8 (p := []) (Nat.zero_le _) wr)
  | ticks n => simp [DecodesToExpansion, encode, Instr.expand, decode_tickInput]

/-- Settles O2, row by row: each row's header word gives back the fields it is made of. -/
theorem encodeThenDecodeGivesExpansion : Obligations.EncodeThenDecodeGivesExpansion :=
  fun _ h => decodesToExpansion_of_wf h

end Sys2Proof

namespace Sys2Proof.Machine

/-! ## Illegal and dropped inputs (R311, R313, R315) -/

theorem exec_reservedInstr (op : BitVec 4) (r : BitVec 28) (s : State) :
    exec (reservedInstr op r) s = .next (answered .illegal s) := by
  unfold reservedInstr
  split <;> rfl

/-- Settles O5: the eleven rows are those of the reserved OPs. -/
theorem reservedOpRowsAnswerIllegal : Obligations.ReservedOpRowsAnswerIllegal := fun s r =>
  have h (op : BitVec 4) := exec_reservedInstr op r s
  ⟨h 0x0#4, h 0x6#4, h 0x7#4, h 0x8#4, h 0x9#4, h 0xA#4, h 0xB#4, h 0xC#4, h 0xD#4, h 0xE#4, h 0xF#4⟩

theorem stepInput_illegal {inp : Input} (h : decode inp = .illegal) (s : State) :
    stepInput inp s = .next (answered .illegal s) := by
  simp only [stepInput, h]
  rfl

theorem stepInput_dropped {inp : Input} (h : decode inp = .dropped) (s : State) : stepInput inp s = .next s := by
  simp only [stepInput, h]

section

variable {w : Word}

/-- A reserved OP is answered ILLEGAL with or without bytes behind the header word. -/
theorem stepInput_reserved (h : (headerOf w).op ∈ reservedOps) (tail : List Byte) (wr : Bool) (s : State) :
    stepInput { port := .host, bytes := wordBytes w ++ tail, wrOk := wr } s = .next (answered .illegal s) := by
  have hd := (decode_host w tail wr).trans (decodeHost_reserved h)
  by_cases htail : tail = []
  · exact (stepInput_instr (hd.trans (if_pos htail)) s).trans (exec_reservedInstr _ _ s)
  · exact stepInput_illegal (hd.trans (if_neg htail)) s

theorem decodeHost_illegal_of_bare (h : (headerOf w).op ∈ bareOps) (hr : restOf w ≠ 0#28) (tail : List Byte)
    (wr : Bool) : decodeHost w tail wr = .illegal := by
  rw [decodeHost_bare h, if_neg hr]

theorem decodeHost_illegal_of_rsv (h : (headerOf w).op ∉ reservedOps) (hrsv : (headerOf w).rsv = 1#1)
    (tail : List Byte) (wr : Bool) : decodeHost w tail wr = .illegal := by
  rcases op_cases (headerOf w).op with hop | hop | hop | hop
  · exact absurd hop h
  · exact decodeHost_illegal_of_bare hop (restOf_ne_zero_of_rsv hrsv) tail wr
  · rw [decodeHost_send hop]; simp [hrsv]
  · exact decodeHost_issue_illegal hop (by simp [hrsv])

/-- An ISSUE whose TIMEOUT word is too large is answered ILLEGAL, by its header word or by its own meaning (R802). -/
theorem stepInput_issue_of_timeout (hop : (headerOf w).op = 4#4) {t : Word} {p : List Byte}
    (hp : p.length = (headerOf w).plen.toNat) (ht : 0x80000000 ≤ t.toNat) (wr : Bool) (s : State) :
    stepInput { port := .host, bytes := wordBytes w ++ (wordBytes t ++ p), wrOk := wr } s = .next (answered .illegal s) := by
  by_cases hunused : (headerOf w).ch = 0#1 ∧ (headerOf w).rsv = 0#1 ∧ (headerOf w).msgId = 0#8
  · have hd := (decode_host w (wordBytes t ++ p) wr).trans
      ((decodeHost_issue_eq_instr hop).2 ⟨hunused, t, p, rfl, hp, rfl⟩)
    have hillegal : timeoutIllegal t = true := decide_eq_true (BitVec.le_def.2 ht)
    calc stepInput _ s = .next (issueCommand (kindOf (headerOf w).kind) t p wr s) := stepInput_instr hd s
      _ = .next (answered .illegal s) := congrArg _ (if_pos hillegal)
  · exact stepInput_illegal ((decode_host _ _ _).trans (decodeHost_issue_illegal hop hunused)) s

theorem decodeTransport_dropped
    (h : ((headerOf w).op ≠ 8#4 ∧ (headerOf w).op ≠ 9#4) ∨ (headerOf w).kind ≠ 0#2 ∨ (headerOf w).rsv = 1#1 ∨
      (headerOf w).msgId ≠ 0#8 ∨ ((headerOf w).op = 9#4 ∧ (headerOf w).plen ≠ 0#16)) (tail : List Byte) :
    decodeTransport w tail = .dropped := by
  by_cases h8 : (headerOf w).op = 8#4
  · rw [decodeTransport_rx h8, if_neg]
    rintro ⟨hkind, hrsv, hid⟩
    simp [h8, hkind, hrsv, hid] at h
  · by_cases h9 : (headerOf w).op = 9#4
    · rw [decodeTransport_rxErr h9, if_neg]
      rintro ⟨hkind, hrsv, hid, hplen⟩
      simp [h9, hkind, hrsv, hid, hplen] at h
    · exact decodeTransport_of_ne h8 h9

theorem decodeTimer_dropped (h : (headerOf w).op ≠ 10#4 ∨ restOf w ≠ 0#28) (tail : List Byte) :
    decodeTimer w tail = .dropped :=
  if_neg fun ⟨hop, hr⟩ => h.elim (· hop) (· hr)

end

/-- Settles O4: the header word alone decides, but for an ISSUE with a TIMEOUT word that is too large. -/
theorem illegalHostCommandsAreAnswered : Obligations.IllegalHostCommandsAreAnswered := by
  refine ⟨fun s w tail wr rest hin h => ?host, fun s w tail wr rest hin h => ?transport,
    fun s w tail wr rest hin h => ?timer⟩ <;>
    rw [step_of_inputs_cons hin]
  case transport => exact stepInput_dropped ((decode_transport w tail wr).trans (decodeTransport_dropped h tail)) _
  case timer => exact stepInput_dropped ((decode_timer w tail wr).trans (decodeTimer_dropped h tail)) _
  case host =>
    by_cases hres : (headerOf w).op ∈ reservedOps
    · exact stepInput_reserved hres tail wr _
    have answer (hd : decodeHost w tail wr = .illegal) :=
      stepInput_illegal ((decode_host w tail wr).trans hd) (s.setInputs rest)
    rcases h with hop | hop | hrsv | ⟨hop, hr⟩ | ⟨hop, hkind⟩ | ⟨hop, hunused⟩ | ⟨hop, t, p, rfl, hp, ht⟩
    · exact absurd ((mem_reservedOps_iff _).2 (.inl hop)) hres
    · exact absurd ((mem_reservedOps_iff _).2 (.inr hop)) hres
    · exact answer (decodeHost_illegal_of_rsv hres hrsv tail wr)
    · exact answer (decodeHost_illegal_of_bare (by simpa [bareOps, headerOf] using hop) hr tail wr)
    · exact answer ((decodeHost_send hop).trans (if_neg fun ⟨hzero, _⟩ => hkind hzero))
    · exact answer (decodeHost_issue_illegal hop fun ⟨hch, _, hid⟩ => hunused.elim (· hch) (· hid))
    · exact stepInput_issue_of_timeout hop hp ht wr _

/-! ## Fixed words (R311, R316) -/

/-- Settles O1: the decoder evaluated on the bytes of the vectors and on the words of the table. -/
theorem catalogueWordsDecode : Obligations.CatalogueWordsDecode := by
  refine ⟨?vectors, ?rows⟩
  case vectors => decide
  case rows => decide

/-! ## TICK*n (R317, R806) -/

theorem finishWait_setInputs (k : Kind) (e : Ending) (s : State) (l : List Input) :
    finishWait k e (s.setInputs l) = (finishWait k e s).setInputs l := by
  unfold finishWait
  rw [State.setInputs_slot]
  cases s.slot k with
  | idle => rfl
  | sent d g => cases k <;> rfl

theorem expireWait_setInputs (k : Kind) (s : State) (l : List Input) :
    expireWait k (s.setInputs l) = (expireWait k s).setInputs l := by
  unfold expireWait
  rw [State.setInputs_slot, State.setInputs_now]
  cases s.slot k with
  | idle => rfl
  | sent d g => simp only [finishWait_setInputs, apply_ite (State.setInputs · l)]

/-- TICK does not read the inputs still to come. -/
theorem tickTimer_setInputs (s : State) (l : List Input) : tickTimer (s.setInputs l) = (tickTimer s).setInputs l := by
  have hnow : (s.setInputs l).setNow (s.now + 1#32) = (s.setNow (s.now + 1#32)).setInputs l := rfl
  rw [tickTimer_eq, tickTimer_eq, State.setInputs_now, hnow]
  simp only [forEachKind_eq, expireWait_setInputs]

theorem tickTimes_now (n : Nat) (s : State) : (tickTimes n s).now = s.now + BitVec.ofNat 32 n := by
  induction n generalizing s with
  | zero => simp [tickTimes]
  | succ n ih => rw [tickTimes, ih, tickTimer_now, BitVec.add_assoc, BitVec.ofNat_add, BitVec.add_comm 1#32]

theorem step_tickInput {s : State} {rest : List Input} (h : s.inputs = tickInput :: rest) :
    step s = .next (tickTimer (s.setInputs rest)) :=
  (step_of_inputs_cons h).trans (stepInput_instr decode_tickInput _)

/-- A run whose first step answers a next state goes on from there. -/
theorem run_of_step {n : Nat} {s t : State} (h : step s = .next t) :
    Sys2Proof.core.run (n + 1) s = Sys2Proof.core.run n t := by
  have hcore : Sys2Proof.core.step s = .next t := h
  simp only [Host.Core.run, hcore]

theorem run_tickInputs (n : Nat) {s : State} {rest : List Input} (h : s.inputs = List.replicate n tickInput ++ rest) :
    Sys2Proof.core.run n s = .next (tickTimes n (s.setInputs rest)) := by
  induction n generalizing s with
  | zero =>
    have hrest : s.inputs = rest := h
    subst hrest
    rfl
  | succ n ih =>
    rw [List.replicate_succ, List.cons_append] at h
    rw [run_of_step (step_tickInput h), ih (by rw [tickTimer_inputs, State.setInputs_inputs]), ← tickTimer_setInputs]
    rfl

/-- Settles O58, by induction on the number of TICK inputs. -/
theorem tickStarIsThatManyTickInputs : Obligations.TickStarIsThatManyTickInputs :=
  ⟨fun n _ _ h => run_tickInputs n h, fun n s => ⟨_, rfl, tickTimes_now n s⟩⟩

/-! ## The scan of a stream cut in two (R515), of a partial frame (R506), of an encoded frame (R514) -/

/-- Scanning in two parts, the remainder of the first before the second, finds what scanning at once finds. -/
theorem scan_append (t : CrcTable) (a b : List Byte) :
    scan t (a ++ b) = ((scan t a).1 ++ (scan t ((scan t a).2 ++ b)).1, (scan t ((scan t a).2 ++ b)).2) := by
  match a with
  | [] => simp
  | x :: rest =>
    by_cases hx : x = som
    · subst hx
      cases h : examine t (som :: rest) with
      | incomplete => simp [scan_incomplete h]
      | mismatch =>
        have hlater : examine t (som :: (rest ++ b)) = .mismatch := examine_append_of_mismatch h b
        rw [List.cons_append, scan_mismatch hlater, scan_mismatch h]
        exact scan_append t rest b
      | accept f span =>
        obtain ⟨hlater, hfits, _⟩ := examine_append_of_accept h b
        rw [List.cons_append] at hlater ⊢
        have hdrop : (rest ++ b).drop (span - 1) = rest.drop (span - 1) ++ b :=
          List.drop_append_of_le_length (by simp only [List.length_cons] at hfits; omega)
        rw [scan_accept hlater, scan_accept h, hdrop, scan_append t (rest.drop (span - 1)) b]
        rfl
    · rw [List.cons_append, scan_skip hx, scan_skip hx]
      exact scan_append t rest b
termination_by a.length
decreasing_by all_goals simp; try omega

/-- A partial frame gives no frame and is kept. -/
theorem scan_of_retained (t : CrcTable) {b : List Byte} (h : Retained b) : scan t b = ([], b) := by
  match b with
  | [] => rfl
  | first :: rest =>
    obtain ⟨rfl, hrest⟩ := h
    refine scan_incomplete (t := t) ?_
    match rest with
    | [] | [_] => rfl
    | lo :: hi :: body =>
      obtain ⟨hlen, hshort⟩ := hrest
      have h3 : ¬ lengthOf lo hi < 3 := by omega
      have hshort' : (som :: lo :: hi :: body).length < lengthOf lo hi + 4 := hshort
      simp only [examine, h3, hshort', if_false, if_true]

theorem examine_encodeFrame (t : CrcTable) (id : Byte) {p : List Byte} (h : p.length ≤ 4092) :
    examine t (encodeFrame t id p) = .accept { id := id, payload := p } (p.length + 7) := by
  obtain ⟨lo, hi, hbytes, hlen⟩ := lengthOf_lengthBytes (n := 1 + p.length + 2) (by unfold lMax; omega)
  have hfits :
      ¬ (som :: lo :: hi :: id :: (p ++ (halfBytes (crc16 t (id :: p)) ++ [eom]))).length < 1 + p.length + 2 + 4 := by
    simp [halfBytes]
    omega
  have hpayload : 1 + p.length + 2 - 3 = p.length := by omega
  have h3 : ¬ 1 + p.length + 2 < 3 := by omega
  have hspan : 1 + p.length + 2 + 4 = p.length + 7 := by omega
  have hwire : encodeFrame t id p = som :: lo :: hi :: id :: (p ++ (halfBytes (crc16 t (id :: p)) ++ [eom])) := by
    simp [encodeFrame, hbytes]
  rw [hwire]
  simp only [examine, hlen, h3, hfits, if_false, hpayload, List.take_left, List.drop_left]
  simp [halfBytes, halfOf_halfBytes, hspan]

/-- An encoded frame is found, and nothing is left of it. -/
theorem scan_encodeFrame (t : CrcTable) (id : Byte) {p : List Byte} (h : p.length ≤ 4092) :
    scan t (encodeFrame t id p) = ([{ id := id, payload := p }], []) := by
  have hlength := encodeFrame_length t id p
  have hexamine := examine_encodeFrame t id h
  obtain ⟨rest, hrest⟩ : ∃ rest, encodeFrame t id p = som :: rest := ⟨_, rfl⟩
  rw [hrest] at hexamine hlength ⊢
  have hdrop : rest.drop (p.length + 7 - 1) = [] :=
    List.drop_eq_nil_of_le (by simp only [List.length_cons] at hlength; omega)
  rw [scan_accept hexamine, hdrop, scan_nil]

/-! ## Receiving in parts (R601, R603) -/

theorem finishWait_setRxbuf (k : Kind) (e : Ending) (s : State) (ch : Channel) (b : List Byte) :
    finishWait k e (s.setRxbuf ch b) = (finishWait k e s).setRxbuf ch b := by
  unfold finishWait
  rw [State.setRxbuf_slot]
  cases s.slot k with
  | idle => rfl
  | sent d g => cases k <;> cases ch <;> rfl

theorem updateStatus_setRxbuf (d : DeviceStatus) (s : State) (ch : Channel) (b : List Byte) :
    updateStatus d (s.setRxbuf ch b) = (updateStatus d s).setRxbuf ch b := by
  unfold updateStatus
  rw [State.setRxbuf_status]
  split
  · rfl
  · cases ch <;> rfl

/-- The dispatcher does not read the receive buffers. -/
theorem dispatch_setRxbuf (c ch : Channel) (b : List Byte) (s : State) (f : Frame) :
    dispatch c (s.setRxbuf ch b) f = (dispatch c s f).setRxbuf ch b := by
  unfold dispatch
  rw [State.setRxbuf_config, State.setRxbuf_status]
  cases interpret s.config c f s.status with
  | none => rfl
  | some e =>
    simp only [updateStatus_setRxbuf]
    rcases resolveSignal_cases e.signal (updateStatus e.status s) with ⟨hs, _⟩ | ⟨k, v, hs, _⟩
    · rw [hs]; rfl
    · simp only [hs, resolveSignal, resolve_eq, finishWait_setRxbuf, State.setRxbuf_status]

theorem dispatchAll_setRxbuf (c ch : Channel) (b : List Byte) (fs : List Frame) (s : State) :
    fs.foldl (dispatch c) (s.setRxbuf ch b) = (fs.foldl (dispatch c) s).setRxbuf ch b := by
  induction fs generalizing s with
  | nil => rfl
  | cons f fs ih => rw [List.foldl_cons, List.foldl_cons, dispatch_setRxbuf, ih]

theorem receiveStep_eq (ch : Channel) (c : List Byte) (s : State) :
    receiveStep ch c s =
      (scan s.config.crcTable (s.rxbuf ch ++ c)).1.foldl (dispatch ch)
        (s.setRxbuf ch (scan s.config.crcTable (s.rxbuf ch ++ c)).2) := rfl

theorem receiveStep_config (ch : Channel) (c : List Byte) (s : State) : (receiveStep ch c s).config = s.config :=
  receiveStep_keeps (P := fun u => u.config = s.config) (fun _ _ h => by simp [h]) c (by simp)

theorem receiveStep_rxbuf (ch : Channel) (c : List Byte) (s : State) :
    (receiveStep ch c s).rxbuf ch = (scan s.config.crcTable (s.rxbuf ch ++ c)).2 :=
  receiveStep_keeps (P := fun u => u.rxbuf ch = (scan s.config.crcTable (s.rxbuf ch ++ c)).2) (fun _ _ h => by simp [h]) c
    (by simp)

/-- Storing a buffer after a receive step leaves of the step what its frames do. -/
theorem receiveStep_setRxbuf (ch : Channel) (c b : List Byte) (s : State) :
    (receiveStep ch c s).setRxbuf ch b =
      (scan s.config.crcTable (s.rxbuf ch ++ c)).1.foldl (dispatch ch) (s.setRxbuf ch b) := by
  rw [receiveStep_eq, ← dispatchAll_setRxbuf, State.setRxbuf_setRxbuf]

/-- Where the transport cuts its bytes does not matter (R515). -/
theorem receiveStep_append (ch : Channel) (a b : List Byte) (s : State) :
    receiveStep ch (a ++ b) s = receiveStep ch b (receiveStep ch a s) := by
  rw [receiveStep_eq ch b, receiveStep_config, receiveStep_rxbuf, receiveStep_setRxbuf, receiveStep_eq ch (a ++ b),
    ← List.append_assoc, scan_append, List.foldl_append]

theorem receiveStep_nil {ch : Channel} {s : State} (h : Retained (s.rxbuf ch)) : receiveStep ch [] s = s := by
  simp [receiveStep, scan_of_retained _ h]

/-- One byte can always be received while connected: a partial frame is shorter than RX_CAP (R603). -/
theorem rxEnabled_byte {s : State} (hc : s.connected = true) {ch : Channel} (h : Retained (s.rxbuf ch)) (b : Byte) :
    rxEnabled s ch [b] = true := by
  have hlen := h.length_le
  have hroom : 1 ≤ min s.config.chunkMax (s.config.rxCap - (s.rxbuf ch).length) := by
    simp only [Config.chunkMax, Config.rxCap, spanMax]
    omega
  simpa [rxEnabled, hc] using hroom

section

variable {s : State} {ch : Channel}

theorem receivedByteByByte_eq_receiveStep (bytes : List Byte) (hc : s.connected = true) (hb : BuffersRetained s) :
    receivedByteByByte ch bytes s = receiveStep ch bytes s := by
  induction bytes generalizing s with
  | nil => exact (receiveStep_nil (hb ch)).symm
  | cons b bytes ih =>
    have hbyte : receive ch [b] s = receiveStep ch [b] s := if_pos (rxEnabled_byte hc (hb ch) b)
    calc receivedByteByByte ch (b :: bytes) s = receivedByteByByte ch bytes (receive ch [b] s) := rfl
      _ = receiveStep ch bytes (receive ch [b] s) := ih (by rw [receive_connected, hc]) (hb.receive ch [b])
      _ = receiveStep ch ([b] ++ bytes) s := by rw [hbyte, receiveStep_append]

theorem receivedByteByByte_keeps {P : State → Prop} (h : ∀ u b, P u → P (receive ch [b] u)) (bytes : List Byte)
    (hs : P s) : P (receivedByteByByte ch bytes s) := by
  induction bytes generalizing s with
  | nil => exact hs
  | cons b bytes ih => exact ih (h s b hs)

theorem receiveFrame_eq_receivedByteByByte (id : Byte) (p : List Byte) (hc : s.connected = true) (hb : BuffersRetained s) :
    receiveFrame ch id p s = receivedByteByByte ch (encodeFrame s.config.crcTable id p) s :=
  (if_pos hc).trans (receivedByteByByte_eq_receiveStep _ hc hb).symm

theorem receiveFrame_eq_dispatch (id : Byte) {p : List Byte} (h : FrameReceivable ch p s) :
    receiveFrame ch id p s = dispatch ch s { id := id, payload := p } := by
  obtain ⟨hc, hempty, hp⟩ := h
  have hsame : s.setRxbuf ch [] = s := by rw [← hempty, State.setRxbuf_same]
  calc receiveFrame ch id p s = receiveStep ch (encodeFrame s.config.crcTable id p) s := if_pos hc
    _ = dispatch ch (s.setRxbuf ch []) { id := id, payload := p } := by
      simp only [receiveStep, hempty, List.nil_append, scan_encodeFrame _ _ hp, List.foldl_cons, List.foldl_nil]
    _ = dispatch ch s { id := id, payload := p } := by rw [hsame]

end

/-- Settles O42: one byte is always enabled, and receive steps of consecutive bytes are the receive step of all of them. -/
theorem receivedFrameRowsDeliverTheirFrame : Obligations.ReceivedFrameRowsDeliverTheirFrame := by
  refine ⟨fun s ch id p hc hb => ?rows, fun s ch bytes hc hb n b _ => ?enabled, fun s p h => ⟨?_, ?_⟩, fun s p h => ?_,
    fun s ch id p h => ?_⟩
  case rows =>
    have row (ch : Channel) (id : Byte) := congrArg (Host.Outcome.next (φ := Fault) (ρ := Refusal))
      (receiveFrame_eq_receivedByteByByte (ch := ch) id p hc hb)
    exact ⟨row .data 0x61#8, row .data 0x42#8, row .cmd 0x01#8, row ch id⟩
  case enabled =>
    obtain ⟨hconnected, hbuffers⟩ :=
      receivedByteByByte_keeps (P := fun u => u.connected = true ∧ BuffersRetained u)
        (fun u b ⟨hc, hb⟩ => ⟨by rw [receive_connected, hc], hb.receive ch [b]⟩) _ ⟨hc, hb⟩
    exact rxEnabled_byte hconnected (hbuffers ch) b
  all_goals exact congrArg Host.Outcome.next (receiveFrame_eq_dispatch _ h)

end Sys2Proof.Machine

/-! # CRC (spec/40_crc.md): O35, O25 -/

namespace Sys2Proof.Machine

/-! ## A candidate whose whole span is there (R510) -/

/-- With its span there, a candidate is judged by its end marker, then by its CRC, whatever follows it. -/
theorem examine_wholeSpan (t : CrcTable) {first lo hi id : Byte} {p : List Byte} (hlen : lengthOf lo hi = p.length + 3)
    (cLo cHi last : Byte) (rest : List Byte) :
    examine t (first :: lo :: hi :: id :: (p ++ cLo :: cHi :: last :: rest)) =
      if last ≠ eom then .mismatch
      else if crc16 t (id :: p) ≠ halfOf cLo cHi then .mismatch
      else .accept { id := id, payload := p } (p.length + 7) := by
  have hlegal : ¬ p.length + 3 < 3 := by omega
  have hfits : ¬ (first :: lo :: hi :: id :: (p ++ cLo :: cHi :: last :: rest)).length < p.length + 3 + 4 := by
    simp only [List.length_cons, List.length_append]
    omega
  simp only [examine, hlen, hlegal, hfits, if_false, Nat.add_sub_cancel, List.take_left, List.drop_left]

/-- Settles O35: the candidate has its whole span and its end marker, so the CRC decides, and the scan goes on one byte
later (R507). -/
theorem alteredCrcFieldRejectsTheFrame : Obligations.AlteredCrcFieldRejectsTheFrame := by
  intro t id p cLo cHi rest hp hcrc
  obtain ⟨lo, hi, hbytes, hlen⟩ := lengthOf_lengthBytes (n := p.length + 3) (by unfold lMax; omega)
  have hmismatch : examine t (som :: lo :: hi :: id :: (p ++ cLo :: cHi :: eom :: rest)) = .mismatch := by
    rw [examine_wholeSpan t hlen, if_neg (not_not_intro rfl), if_pos hcrc.symm]
  simpa [hbytes, som, eom] using scan_mismatch hmismatch

/-! ## The fold and its composition (R405), and its values on the shortest lists (R406) -/

/-- A step with `c[15:8]` written as a shift. -/
theorem crcStep_eq (t : CrcTable) (c : Half) (b : Byte) (h : ((c >>> 8).setWidth 8 ^^^ b).toNat < 256) :
    crcStep t c b = t[((c >>> 8).setWidth 8 ^^^ b).toNat] ^^^ (c <<< 8) := by
  simp only [crcStep, BitVec.setWidth_ushiftRight_eq_extractLsb]

@[simp] theorem crcFrom_nil (t : CrcTable) (c : Half) : crcFrom t c [] = c := rfl

@[simp] theorem crcFrom_cons (t : CrcTable) (c : Half) (b : Byte) (rest : List Byte) :
    crcFrom t c (b :: rest) = crcFrom t (crcStep t c b) rest := rfl

theorem crcFrom_append (t : CrcTable) (c : Half) (A B : List Byte) :
    crcFrom t c (A ++ B) = crcFrom t (crcFrom t c A) B := List.foldl_append

/-- A step with the table entry it looks up already known. -/
theorem crcStep_of_entry {t : CrcTable} {c x : Half} {b : Byte}
    (h : t[((c >>> 8).setWidth 8 ^^^ b).toNat]? = some x) : crcStep t c b = x ^^^ (c <<< 8) := by
  obtain ⟨hindex, hentry⟩ := Vector.getElem?_eq_some_iff.mp h
  rw [crcStep_eq t c b hindex, hentry]

/-- From 0 the CRC of one byte is the byte's table entry. -/
theorem crc16_byte {t : CrcTable} {a : Byte} {x : Half} (h : t[a.toNat]? = some x) : crc16 t [a] = x := by
  have hstep : crcStep t 0#16 a = x ^^^ (0#16 <<< 8) := crcStep_of_entry (by simpa using h)
  simpa [crc16] using hstep

/-- The shift drops the high byte. -/
theorem shiftLeft_low_byte (x : Half) : x <<< 8 = ((x.setWidth 8).setWidth 16) <<< 8 := by
  refine BitVec.eq_of_toNat_eq ?_
  simp only [BitVec.toNat_shiftLeft, BitVec.toNat_setWidth, Nat.shiftLeft_eq]
  omega

/-- Settles O25: the fold by its equations, the corner cases by one and two of its steps. -/
theorem crcFoldsItsTable : Obligations.CrcFoldsItsTable := by
  refine ⟨fun t => ⟨crcFrom_nil t, fun c b rest h => ?fold, fun _ => rfl, crcFrom_append t 0#16⟩,
    fun t a b x y hx hy => ⟨rfl, crc16_byte hx, ?two⟩⟩
  case fold => rw [crcFrom_cons, crcStep_eq t c b h]
  case two =>
    calc crc16 t [a, b] = crcStep t (crc16 t [a]) b := rfl
      _ = y ^^^ (x <<< 8) := by rw [crc16_byte hx, crcStep_of_entry hy]
      _ = y ^^^ (((x.setWidth 8).setWidth 16) <<< 8) := by rw [← shiftLeft_low_byte]

end Sys2Proof.Machine

/-! # Frame codec (spec/41_frame_codec.md): O27 to O34, O36, O26 -/

namespace Sys2Proof.Machine

/-! ## What encode writes (R501) -/

/-- The two bytes of a length field are its remainder and its quotient by 256. -/
theorem lengthBytes_eq {n : Nat} (h : n ≤ lMax) :
    lengthBytes n = [BitVec.ofNat 8 (n % 256), BitVec.ofNat 8 (n / 256)] := by
  have hfield : n < 2 ^ 12 := Nat.lt_succ_of_le h
  have hlow : (BitVec.ofNat 12 n).extractLsb' 0 8 = BitVec.ofNat 8 (n % 256) := by
    refine BitVec.eq_of_toNat_eq ?_
    simp only [BitVec.extractLsb'_toNat, BitVec.toNat_ofNat, Nat.shiftRight_zero]
    omega
  have hhigh : (0#4 ++ (BitVec.ofNat 12 n).extractLsb' 8 4 : Byte) = BitVec.ofNat 8 (n / 256) := by
    refine BitVec.eq_of_toNat_eq ?_
    simp only [BitVec.toNat_append, BitVec.extractLsb'_toNat, BitVec.toNat_ofNat, Nat.shiftRight_eq_div_pow,
      Nat.zero_mod, Nat.zero_shiftLeft, Nat.zero_or]
    omega
  simp only [lengthBytes, hlow, hhigh]

theorem halfBytes_eq (h : Half) : halfBytes h = [h.setWidth 8, (h >>> 8).setWidth 8] := by
  rw [BitVec.setWidth_ushiftRight_eq_extractLsb, BitVec.setWidth_eq_extractLsb' (by decide), halfBytes]

/-- An encoded frame begins with the start marker and a length field that reads back. -/
theorem encodeFrame_eq_cons (t : CrcTable) (id : Byte) {p : List Byte} (h : p.length ≤ 4092) :
    ∃ lo hi body, encodeFrame t id p = som :: lo :: hi :: body ∧ lengthOf lo hi = p.length + 3 := by
  obtain ⟨lo, hi, hbytes, hlen⟩ := lengthOf_lengthBytes (n := 1 + p.length + 2) (by unfold lMax; omega)
  refine ⟨lo, hi, [id] ++ p ++ halfBytes (crc16 t (id :: p)) ++ [eom], ?_, by omega⟩
  simp only [encodeFrame, hbytes, List.append_assoc, List.cons_append, List.nil_append]

/-- What a cut leaves of an encoded frame is a partial frame. -/
theorem retained_of_encodeFrame_eq_append {t : CrcTable} {id : Byte} {p E1 E2 : List Byte} (hp : p.length ≤ 4092)
    (hcut : encodeFrame t id p = E1 ++ E2) (hrest : E2 ≠ []) : Retained E1 := by
  have hshort : E1.length < p.length + 7 := by
    have hlength := congrArg List.length hcut
    have hpos := List.length_pos_iff.mpr hrest
    rw [encodeFrame_length, List.length_append] at hlength
    omega
  obtain ⟨lo, hi, body, hwire, hlen⟩ := encodeFrame_eq_cons t id hp
  rw [hwire] at hcut
  match E1 with
  | [] => trivial
  | [first] | [first, second] =>
    obtain ⟨rfl, _⟩ := List.cons.inj hcut
    exact ⟨rfl, trivial⟩
  | first :: second :: third :: kept =>
    simp only [List.cons_append, List.cons.injEq] at hcut
    obtain ⟨rfl, rfl, rfl, _⟩ := hcut
    exact ⟨rfl, by omega, by omega⟩

/-! ## Candidates (R505 to R508) -/

/-- Behind a legal length field whose span fits stand the id, the payload, the two CRC bytes and the last byte. -/
theorem exists_wholeSpan {len : Nat} {body : List Byte} (hlegal : 3 ≤ len) (hfits : len + 1 ≤ body.length) :
    ∃ id p cLo cHi last rest, body = id :: (p ++ cLo :: cHi :: last :: rest) ∧ len = p.length + 3 := by
  match body with
  | id :: tail =>
    have htail : len ≤ tail.length := Nat.le_of_succ_le_succ hfits
    have hsplit := List.take_append_drop (len - 3) tail
    have hpayload : (tail.take (len - 3)).length = len - 3 := List.length_take_of_le (by omega)
    have hbehind : 3 ≤ (tail.drop (len - 3)).length := by rw [List.length_drop]; omega
    match hd : tail.drop (len - 3) with
    | [] | [_] | [_, _] => simp [hd] at hbehind
    | cLo :: cHi :: last :: rest =>
      rw [hd] at hsplit
      exact ⟨id, _, cLo, cHi, last, rest, by rw [hsplit], by omega⟩

/-- What stands at the places of R505 behind a payload: the two CRC bytes and the last byte. -/
theorem wholeSpan_getElem? {b : List Byte} {first lo hi id : Byte} {p : List Byte} {cLo cHi last : Byte}
    {rest : List Byte} (hb : b = first :: lo :: hi :: id :: (p ++ cLo :: cHi :: last :: rest)) :
    b[p.length + 4]? = some cLo ∧ b[p.length + 5]? = some cHi ∧ b[p.length + 6]? = some last := by
  simp [hb]

/-- An abandoned candidate is a mismatch: its length field is too small, or the end marker or the CRC decides (R507). -/
theorem Abandoned.examine_eq {t : CrcTable} {b : List Byte} (h : Abandoned t b) : examine t b = .mismatch := by
  obtain ⟨first, lo, hi, body, rfl, hreason⟩ := h
  by_cases hlegal : lengthOf lo hi < 3
  · simp only [examine, hlegal, if_true]
  · obtain ⟨hfits, hwrong⟩ := hreason.resolve_left hlegal
    obtain ⟨id, p, cLo, cHi, last, rest, hbody, hlen⟩ := exists_wholeSpan (len := lengthOf lo hi) (body := body)
      (Nat.not_lt.mp hlegal) (by simp only [List.length_cons] at hfits; omega)
    obtain ⟨hcLo, hcHi, hlast⟩ := wholeSpan_getElem? (congrArg (first :: lo :: hi :: ·) hbody)
    subst hbody
    rw [examine_wholeSpan t hlen]
    rw [hlen] at hwrong
    rcases hwrong with hmarker | hcrc
    · have hne : last ≠ eom := fun heq => hmarker (by rw [hlast, heq, eom])
      rw [if_pos hne]
    · have hne : crc16 t (id :: p) ≠ halfOf cLo cHi := by simpa using hcrc cLo cHi hcLo hcHi
      rw [if_pos hne, ite_self]

/-- Bytes each of which is no start marker, or an abandoned one where it stands, are passed over. -/
theorem scan_append_of_abandoned {t : CrcTable} {n b : List Byte}
    (h : ∀ i, n[i]? = some som → Abandoned t ((n ++ b).drop i)) : scan t (n ++ b) = scan t b := by
  induction n with
  | nil => rfl
  | cons x n ih =>
    have hrest : scan t (n ++ b) = scan t b := ih fun i hi => h (i + 1) hi
    by_cases hx : x = som
    · subst hx
      have hmismatch : examine t (som :: (n ++ b)) = .mismatch := (h 0 rfl).examine_eq
      rw [List.cons_append, scan_mismatch hmismatch, hrest]
    · rw [List.cons_append, scan_skip hx, hrest]

/-- Bytes none of which is a start marker are skipped (R508). -/
theorem scan_noise_append (t : CrcTable) {n : List Byte} (hn : ∀ x ∈ n, x ≠ som) (b : List Byte) :
    scan t (n ++ b) = scan t b :=
  scan_append_of_abandoned fun _ hi => absurd rfl (hn _ (List.mem_of_getElem? hi))

/-- Scanning goes on behind an encoded frame (R509). -/
theorem scan_encodeFrame_append (t : CrcTable) (id : Byte) {p : List Byte} (hp : p.length ≤ 4092) (b : List Byte) :
    scan t (encodeFrame t id p ++ b) = ({ id := id, payload := p } :: (scan t b).1, (scan t b).2) := by
  rw [scan_append, scan_encodeFrame t id hp]
  rfl

/-! ## The statements -/

/-- Settles O27. -/
theorem decodeOfEncodeIsTheFrame : Obligations.DecodeOfEncodeIsTheFrame := fun t id _ hp => scan_encodeFrame t id hp

/-- Settles O28, by induction on the frames. -/
theorem framesBackToBackAreAllRecovered : Obligations.FramesBackToBackAreAllRecovered := by
  intro t fs hfs
  induction fs with
  | nil => rfl
  | cons f fs ih =>
    obtain ⟨hf, hrest⟩ := List.forall_mem_cons.mp hfs
    rw [List.flatMap_cons, scan_encodeFrame_append t f.id hf, ih hrest]

/-- Settles O29. -/
theorem scanDoesNotDependOnChunking : Obligations.ScanDoesNotDependOnChunking := scan_append

/-- Settles O30: the first part is a partial frame, which the scan keeps. -/
theorem partialDeliveryYieldsTheFrameOnce : Obligations.PartialDeliveryYieldsTheFrameOnce := by
  intro t id p E1 E2 hp hcut _ hrest
  exact ⟨scan_of_retained t (retained_of_encodeFrame_eq_append hp hcut hrest), hcut ▸ scan_encodeFrame t id hp⟩

/-- Settles O31. -/
theorem scanRemainderIsAPartialFrame : Obligations.ScanRemainderIsAPartialFrame :=
  fun t b => ⟨scan_retained t b, (scan_retained t b).length_le⟩

/-- Settles O32; noise alone is noise before nothing. -/
theorem noiseWithoutAStartMarkerIsDiscarded : Obligations.NoiseWithoutAStartMarkerIsDiscarded := by
  intro t n b hn
  have halone : scan t (n ++ []) = scan t [] := scan_noise_append t hn []
  exact ⟨scan_noise_append t hn b, by rwa [List.append_nil, scan_nil] at halone⟩

/-- Settles O33: in both cases what begins at the candidate is a partial frame, which the scan keeps. -/
theorem incompleteCandidateStopsTheScan : Obligations.IncompleteCandidateStopsTheScan := by
  refine ⟨fun t n b hn hb => ?header, fun t n lo hi b hn hlegal hshort => ?span⟩
  case header =>
    have hretained : Retained (0xFD#8 :: b) := by
      match b with
      | [] | [_] => exact ⟨rfl, trivial⟩
      | _ :: _ :: _ => simp only [List.length_cons] at hb; omega
    rw [scan_noise_append t hn, scan_of_retained t hretained]
  case span =>
    rw [← lengthOf_eq] at hlegal hshort
    have hretained : Retained (0xFD#8 :: lo :: hi :: b) := ⟨rfl, hlegal, hshort⟩
    rw [scan_noise_append t hn, scan_of_retained t hretained]

/-- Settles O34. -/
theorem abandonedCandidateResyncsAtTheNextByte : Obligations.AbandonedCandidateResyncsAtTheNextByte :=
  fun _ _ h => scan_mismatch h.examine_eq

/-- Settles O36: the noise before the frame is passed over, the frame is found, and the scan goes on behind it. -/
theorem resyncFindsTheFrameInNoise : Obligations.ResyncFindsTheFrameInNoise := by
  intro t N1 N2 id p hp hnoise
  have hframe : (scan t (N1 ++ encodeFrame t id p ++ N2)).1 = { id := id, payload := p } :: (scan t N2).1 := by
    rw [List.append_assoc] at hnoise ⊢
    rw [scan_append_of_abandoned hnoise, scan_encodeFrame_append t id hp]
  exact ⟨hframe, fun hnone => by rw [hframe, hnone]⟩

/-- Settles O26. -/
theorem encodeWritesTheWireFormat : Obligations.EncodeWritesTheWireFormat := by
  intro t id p hp
  have hlen : 1 + p.length + 2 = p.length + 3 := by omega
  have hfield : p.length + 3 ≤ lMax := by unfold lMax; omega
  simp only [encodeFrame, hlen, lengthBytes_eq hfield, halfBytes_eq, som, eom, List.append_assoc, List.cons_append,
    List.nil_append]

end Sys2Proof.Machine

/-! # Receive step (spec/42_receive.md): O40, O41, O37, O38, O43 -/

namespace Sys2Proof.Machine

/-! ## Where a chunk is taken, and where it is turned away (R601) -/

theorem rxEnabled_iff {s : State} {ch : Channel} {c : List Byte} :
    rxEnabled s ch c = true ↔
      s.connected = true ∧ 1 ≤ c.length ∧ c.length ≤ min s.config.chunkMax (s.config.rxCap - (s.rxbuf ch).length) := by
  simp only [rxEnabled, Bool.and_eq_true, decide_eq_true_eq, and_assoc]

theorem receive_of_enabled {s : State} {ch : Channel} {c : List Byte} (h : rxEnabled s ch c = true) :
    receive ch c s = receiveStep ch c s := if_pos h

theorem receive_of_not_enabled {s : State} {ch : Channel} {c : List Byte} (h : ¬ rxEnabled s ch c = true) :
    receive ch c s = s := if_neg h

theorem receiveFrame_of_disconnected {s : State} (h : s.connected = false) (ch : Channel) (id : Byte) (p : List Byte) :
    receiveFrame ch id p s = s := if_neg (by simp [h])

theorem exec_rx_eq_next {s t : State} {ch : Channel} {c : List Byte} :
    exec (.rx ch c) s = .next t ↔ receive ch c s = t := ⟨Host.Outcome.next.inj, congrArg Host.Outcome.next⟩

/-! ## The receive step -/

/-- Settles O40: a receive keeps the connection and leaves both buffers partial frames, which one byte always fits behind. -/
theorem receiveIsEnabledAgainAfterEveryReceive : Obligations.ReceiveIsEnabledAgainAfterEveryReceive := by
  intro s t ch c hc hb hexec ch' b
  obtain rfl := exec_rx_eq_next.mp hexec
  have hconnected : (receive ch c s).connected = true := (receive_connected ch c s).trans hc
  have hbuffers : BuffersRetained (receive ch c s) := hb.receive ch c
  exact ⟨_, rfl, rxEnabled_byte hconnected (hbuffers ch') b, (receive_connected ch' [b] _).trans hconnected⟩

/-- Settles O41: where they are enabled the three receives are receive steps, and those do not depend on the cut (R515). -/
theorem chunkingIsUnobservable : Obligations.ChunkingIsUnobservable := by
  intro s t u ch c1 c2 h1 h2 h12 hexec1 hexec2
  have ht : receiveStep ch c1 s = t := receive_of_enabled h1 ▸ exec_rx_eq_next.mp hexec1
  have hu : receiveStep ch c2 t = u := receive_of_enabled h2 ▸ exec_rx_eq_next.mp hexec2
  rw [exec_rx_eq_next, receive_of_enabled h12, receiveStep_append, ht, hu]

/-- Settles O37. -/
theorem receiveScansAndDispatches : Obligations.ReceiveScansAndDispatches := by
  intro s ch c hconnected hpos hfits
  rw [exec_rx_eq_next, receive_of_enabled (rxEnabled_iff.mpr ⟨hconnected, hpos, hfits⟩), receiveStep_eq]

/-- Settles O38: each of the four conditions contradicts one part of what enables the chunk. -/
theorem receiveNotEnabledChangesNothing : Obligations.ReceiveNotEnabledChangesNothing := by
  refine ⟨fun s ch c hnot => ?chunk, fun s ch id p hoff => ?frames⟩
  case chunk =>
    refine exec_rx_eq_next.mpr (receive_of_not_enabled fun henabled => ?_)
    obtain ⟨hconnected, hpos, hfits⟩ := rxEnabled_iff.mp henabled
    obtain ⟨hchunk, hroom⟩ := Nat.le_min.mp hfits
    rcases hnot with hoff | hempty | hlong | hfull
    · exact absurd hconnected (by simp [hoff])
    · omega
    · omega
    · omega
  case frames =>
    have row (ch : Channel) (id : Byte) := congrArg (Host.Outcome.next (φ := Fault) (ρ := Refusal))
      (receiveFrame_of_disconnected hoff ch id p)
    exact ⟨row .data 0x61#8, row .data 0x42#8, row .cmd 0x01#8, row ch id⟩

/-- Settles O43. -/
theorem readErrorIsOnlyAnEvent : Obligations.ReadErrorIsOnlyAnEvent := by
  intro s ch
  rcases receiveError_cases ch s with ⟨hon, herr⟩ | ⟨hoff, herr⟩
  · exact ⟨fun _ => congrArg Host.Outcome.next herr, fun hoff => absurd (hon.symm.trans hoff) Bool.noConfusion⟩
  · exact ⟨fun hon => absurd (hon.symm.trans hoff) Bool.noConfusion, fun _ => congrArg Host.Outcome.next herr⟩

end Sys2Proof.Machine

/-! # Dispatcher (spec/43_dispatch.md): O39, O44, O48, O45 to O47 -/

namespace Sys2Proof.Machine

/-! ## One frame as one explicit state (R700, R709, R804) -/

/-- The status writes and then the signal of a frame, in the terms of the statements. -/
theorem resolveSignal_updateStatus (d : DeviceStatus) (signal : Option (Kind × Byte)) (s : State) :
    resolveSignal signal (updateStatus d s) = afterFrame d signal s := by
  cases signal with
  | none => exact updateStatus_eq d s
  | some kv =>
    obtain ⟨k, v⟩ := kv
    simp only [resolveSignal, resolve_eq, updateStatus_status]
    cases hslot : s.slot k with
    | idle => rw [finishWait_idle _ (by simp [hslot]), updateStatus_eq]; simp [afterFrame, hslot]
    | sent deadline g =>
      rw [finishWait_sent _ ((updateStatus_slot d s k).trans hslot), updateStatus_eq]
      simp [afterFrame, hslot, State.emit]

/-- A frame that is not ignored. -/
theorem dispatch_of_interpret {ch : Channel} {s : State} {f : Frame} {e : Effect}
    (h : interpret s.config ch f s.status = some e) : dispatch ch s f = afterFrame e.status e.signal s := by
  simp only [dispatch, h, resolveSignal_updateStatus]

/-- An ignored frame (R710). -/
theorem dispatch_of_ignored {ch : Channel} {s : State} {f : Frame} (h : interpret s.config ch f s.status = none) :
    dispatch ch s f = s := by
  simp only [dispatch, h]

/-! ## What the events of one frame are (R709) -/

/-- The end of a wait emits one completion, or nothing for an Idle slot. -/
theorem finishWait_events_cases (k : Kind) (e : Ending) (s : State) :
    ∃ tail, (finishWait k e s).events = s.events ++ tail ∧ (tail = [] ∨ ∃ g, tail = [.completion k g e]) := by
  refine ⟨_, finishWait_events k e s, ?_⟩
  cases s.slot k with
  | idle => exact .inl rfl
  | sent _ g => exact .inr ⟨g, rfl⟩

/-- StatusChanged where the record differs, then at most one completion, of a kind of the frame's channel. -/
theorem dispatch_events (ch : Channel) (s : State) (f : Frame) :
    ∃ tail, (dispatch ch s f).events =
        s.events ++ (if (dispatch ch s f).status = s.status then [] else [.statusChanged (dispatch ch s f).status]) ++ tail ∧
      (tail = [] ∨ ∃ k g v, kindChannel k = ch ∧ tail = [.completion k g (.success v (dispatch ch s f).status)]) := by
  rcases dispatch_cases ch s f with ⟨_, heq⟩ | ⟨e, he, heq⟩
  · exact ⟨[], by simp [heq], .inl rfl⟩
  · rw [heq, resolveSignal_status, updateStatus_status, ← updateStatus_events]
    rcases resolveSignal_cases e.signal (updateStatus e.status s) with ⟨_, hsame⟩ | ⟨k, v, hkv, hends⟩
    · exact ⟨[], by simp [hsame], .inl rfl⟩
    · obtain ⟨tail, hevents, htail⟩ := finishWait_events_cases k (.success v e.status) (updateStatus e.status s)
      rw [hends, updateStatus_status]
      exact ⟨tail, hevents, htail.imp_right fun ⟨g, h⟩ => ⟨k, g, v, interpret_kind he hkv, h⟩⟩

/-- Settles O48. -/
theorem dispatchReportsEachChangeOnce : Obligations.DispatchReportsEachChangeOnce := by
  intro ch s f
  obtain ⟨tail, hevents, htail⟩ := dispatch_events ch s f
  exact ⟨tail, hevents, htail.imp_right fun ⟨k, g, v, _, h⟩ => ⟨k, g, v, h⟩⟩

/-! ## What received frames can do to the slots and the event stream -/

/-- A wait that ends leaves its slot Idle, and the others as they were. -/
theorem finishWait_slot (k : Kind) (e : Ending) (s : State) (j : Kind) :
    (finishWait k e s).slot j = if j = k then .idle else s.slot j := by
  split
  · next h => rw [h, finishWait_slot_self]
  · next h => exact finishWait_slot_ne e s h

theorem dispatch_slot (ch : Channel) (s : State) (f : Frame) (k : Kind) :
    (dispatch ch s f).slot k = s.slot k ∨ (dispatch ch s f).slot k = .idle := by
  rcases dispatch_cases ch s f with ⟨_, heq⟩ | ⟨e, _, heq⟩ <;> rw [heq]
  · exact .inl rfl
  · rcases resolveSignal_cases e.signal (updateStatus e.status s) with ⟨_, hsame⟩ | ⟨j, v, _, hends⟩
    · exact .inl (by rw [hsame, updateStatus_slot])
    · rw [hends, finishWait_slot, updateStatus_slot]
      split
      · exact .inr rfl
      · exact .inl rfl

/-- An event that a frame received on `ch` can cause. -/
def CausedByFrameOn (ch : Channel) (e : Event) : Prop :=
  (∃ d, e = .statusChanged d) ∨ ∃ k g v d, e = .completion k g (.success v d) ∧ kindChannel k = ch

/-- From `s` to `t` slots at most became Idle, and only events that frames received on `ch` can cause were added. -/
structure FramesReceived (ch : Channel) (s t : State) : Prop where
  slot : ∀ k, t.slot k = s.slot k ∨ t.slot k = .idle
  events : ∃ evs, t.events = s.events ++ evs ∧ ∀ e ∈ evs, CausedByFrameOn ch e

namespace FramesReceived

variable {ch : Channel} {r s t : State}

theorem of_eq (slot : ∀ k, t.slot k = s.slot k) (events : t.events = s.events) : FramesReceived ch s t :=
  ⟨fun k => .inl (slot k), [], by simp [events], by simp⟩

protected theorem trans (hrs : FramesReceived ch r s) (hst : FramesReceived ch s t) : FramesReceived ch r t := by
  obtain ⟨hslot, evs, hevents, hcaused⟩ := hrs
  obtain ⟨hslot', evs', hevents', hcaused'⟩ := hst
  refine ⟨fun k => ?_, evs ++ evs', by rw [hevents', hevents, List.append_assoc], ?_⟩
  · rcases hslot' k with hkept | hidle
    · rw [hkept]; exact hslot k
    · exact .inr hidle
  · exact List.forall_mem_append.mpr ⟨hcaused, hcaused'⟩

protected theorem dispatch (ch : Channel) (s : State) (f : Frame) : FramesReceived ch s (dispatch ch s f) := by
  obtain ⟨tail, hevents, htail⟩ := dispatch_events ch s f
  refine ⟨dispatch_slot ch s f, _, hevents.trans (List.append_assoc _ _ _), List.forall_mem_append.mpr ⟨?change, ?wait⟩⟩
  case change =>
    split
    · exact List.forall_mem_nil _
    · exact List.forall_mem_singleton.mpr (.inl ⟨_, rfl⟩)
  case wait =>
    rcases htail with rfl | ⟨k, g, v, hk, rfl⟩
    · exact List.forall_mem_nil _
    · exact List.forall_mem_singleton.mpr (.inr ⟨k, g, v, _, rfl, hk⟩)

protected theorem receive (ch : Channel) (c : List Byte) (s : State) : FramesReceived ch s (receive ch c s) :=
  receive_keeps (fun t f ht => ht.trans (.dispatch ch t f)) c (of_eq (by simp) (by simp)) (of_eq (fun _ => rfl) rfl)

end FramesReceived

/-- A receive leaves the other channel's buffer alone (R104). -/
theorem receive_rxbuf_ne {ch c : Channel} (h : c ≠ ch) (chunk : List Byte) (s : State) :
    (receive ch chunk s).rxbuf c = s.rxbuf c :=
  receive_keeps (P := fun t => t.rxbuf c = s.rxbuf c) (fun _ _ ht => by simp [ht]) chunk (by simp [h]) rfl

/-- Settles O39: a receive is a write to its own channel's buffer and a number of dispatched frames. -/
theorem receiveTouchesOnlyItsOwnState : Obligations.ReceiveTouchesOnlyItsOwnState := by
  intro s t ch c hexec
  obtain rfl := exec_rx_eq_next.mp hexec
  obtain ⟨hslot, hevents⟩ := FramesReceived.receive ch c s
  exact ⟨receive_config ch c s, receive_connected ch c s, receive_now ch c s, receive_seq ch c s, receive_inputs ch c s,
    receive_answers ch c s, fun _ h => receive_rxbuf_ne h c s, hslot, hevents⟩

/-! ## The frame 0x61 on DATA (R702) -/

theorem interpret_status (c : Config) (p : List Byte) (old : DeviceStatus) :
    interpret c .data { id := 0x61#8, payload := p } old = status61 c p old := rfl

section

variable {c : Config} {p : List Byte} {old : DeviceStatus}

theorem status61_of_length_le (h : p.length ≤ c.statusMinLen) : status61 c p old = none := dif_neg (Nat.not_lt.mpr h)

/-- A payload that is long enough, by the bytes at its four offsets. -/
theorem status61_of_bytes {bl br bw bm : Byte} (h : c.statusMinLen < p.length) (hbl : p[c.offBattL]? = some bl)
    (hbr : p[c.offBattR]? = some br) (hbw : p[c.offWear]? = some bw) (hbm : p[c.offNc]? = some bm) :
    status61 c p old =
      some
        { status :=
            { old with
              batteryLeft := levelOf bl
              batteryRight := levelOf br
              isWearing := wearOf c bw
              noiseControlMode := ncDecode c bm }
          signal := if ncDecode c bm = old.noiseControlMode then none else some (.noise, bm) } := by
  obtain ⟨_, rfl⟩ := List.getElem?_eq_some_iff.mp hbl
  obtain ⟨_, rfl⟩ := List.getElem?_eq_some_iff.mp hbr
  obtain ⟨_, rfl⟩ := List.getElem?_eq_some_iff.mp hbw
  obtain ⟨_, rfl⟩ := List.getElem?_eq_some_iff.mp hbm
  simp only [status61, dif_pos h, ne_eq, ite_not]

end

/-- Settles O44. -/
theorem extendedStatusFrameUpdatesTheStatus : Obligations.ExtendedStatusFrameUpdatesTheStatus := by
  intro s p
  refine ⟨fun hshort => ?_, fun hlong bl br bw bm hbl hbr hbw hbm => ?_⟩
  · exact dispatch_of_ignored ((interpret_status ..).trans (status61_of_length_le hshort))
  · exact dispatch_of_interpret ((interpret_status ..).trans (status61_of_bytes hlong hbl hbr hbw hbm))

/-! ## The frame 0x42 on DATA (R703 to R706) -/

theorem interpret_ack (c : Config) (p : List Byte) (old : DeviceStatus) :
    interpret c .data { id := 0x42#8, payload := p } old = ack42 c p old := rfl

theorem ack42_of_length_lt (c : Config) {p : List Byte} (h : p.length < 2) (old : DeviceStatus) : ack42 c p old = none := by
  match p with
  | [] | [_] => rfl
  | _ :: _ :: _ => simp only [List.length_cons] at h; omega

theorem ack42_of_unlisted (c : Config) {a : Byte} (hnoise : a ≠ 0x78#8) (hanc : a ≠ 0x83#8) (hambient : a ≠ 0x84#8)
    (v : Byte) (rest : List Byte) (old : DeviceStatus) : ack42 c (a :: v :: rest) old = none := by
  simp only [ack42, if_neg hnoise, if_neg hanc, if_neg hambient]

/-- Settles O45: each listed first byte has its effect, and everything else is ignored. -/
theorem acknowledgmentFrameUpdatesAndResolves : Obligations.AcknowledgmentFrameUpdatesAndResolves := by
  intro s
  refine ⟨fun v rest => ?noise, fun v rest => ?ancLevel, fun v rest => ?ambientLevel, fun p hshort => ?short,
    fun a v rest hnoise hanc hambient => ?unlisted⟩
  case noise => exact dispatch_of_interpret (e := ackNoise s.config v s.status) rfl
  case ancLevel => exact dispatch_of_interpret (e := ackAncLevel v s.status) rfl
  case ambientLevel => exact dispatch_of_interpret (e := ackAmbientLevel v s.status) rfl
  case short => exact dispatch_of_ignored ((interpret_ack ..).trans (ack42_of_length_lt s.config hshort s.status))
  case unlisted =>
    exact dispatch_of_ignored ((interpret_ack ..).trans (ack42_of_unlisted s.config hnoise hanc hambient v rest s.status))

/-! ## The frame 0x01 on CMD (R707), and every other frame (R708) -/

/-- Settles O46. -/
theorem testResultFrameResolvesTheTest : Obligations.TestResultFrameResolvesTheTest := fun s =>
  ⟨fun v _ => dispatch_of_interpret (e := { status := s.status, signal := some (.testConn, v) }) rfl, dispatch_of_ignored rfl⟩

theorem interpret_data_unlisted (c : Config) {f : Frame} (hstatus : f.id ≠ 0x61#8) (hack : f.id ≠ 0x42#8)
    (old : DeviceStatus) : interpret c .data f old = none := by
  simp only [interpret, if_neg hstatus, if_neg hack]

theorem interpret_cmd_unlisted (c : Config) {f : Frame} (htest : f.id ≠ 0x01#8) (old : DeviceStatus) :
    interpret c .cmd f old = none := by
  simp only [interpret, if_neg htest]

/-- Settles O47. -/
theorem unlistedMessagesAreIgnored : Obligations.UnlistedMessagesAreIgnored :=
  ⟨fun s _ hstatus hack => dispatch_of_ignored (interpret_data_unlisted s.config hstatus hack s.status),
    fun s _ htest => dispatch_of_ignored (interpret_cmd_unlisted s.config htest s.status)⟩

end Sys2Proof.Machine

/-! # Correlator (spec/44_correlator.md): O16, O17, O53, O56, O57, O59 -/

namespace Sys2Proof.Machine

/-! ## One TICK (R806) -/

theorem expireWait_slot (k : Kind) (s : State) (j : Kind) :
    (expireWait k s).slot j = if j = k then slotAt s.now (s.slot k) else s.slot j := by
  split
  · next h => rw [h, expireWait_eq, State.setSlot_slot_self]
  · next h => exact expireWait_slot_ne s h

theorem expireWait_events (k : Kind) (s : State) :
    (expireWait k s).events = s.events ++ timeoutAt s.now k (s.slot k) := by
  rw [expireWait_eq, State.setSlot_events]

theorem tickTimer_slot (s : State) (k : Kind) : (tickTimer s).slot k = slotAt (s.now + 1#32) (s.slot k) := by
  cases k <;> simp [tickTimer_eq, forEachKind_eq, expireWait_slot]

theorem tickTimer_events (s : State) :
    (tickTimer s).events = s.events ++ Kind.all.flatMap (fun k => timeoutAt (s.now + 1#32) k (s.slot k)) := by
  simp [tickTimer_eq, forEachKind_eq, expireWait_events, Kind.all]

/-- Settles O56: the visits to the kinds write one slot each, and their completions stand in kind order. -/
theorem tickCountsAndExpires : Obligations.TickCountsAndExpires := by
  intro s
  refine congrArg Host.Outcome.next (State.eq_of_elements ?config ?connected ?rxbuf ?status ?slot ?now ?seq ?inputs ?events
    ?answers)
  case config => exact tickTimer_config s
  case connected => exact tickTimer_connected s
  case rxbuf => intro ch; rw [tickTimer_rxbuf]; cases ch <;> rfl
  case status => exact tickTimer_status s
  case slot => intro k; rw [tickTimer_slot]; cases k <;> rfl
  case now => exact tickTimer_now s
  case seq => exact tickTimer_seq s
  case inputs => exact tickTimer_inputs s
  case events => exact tickTimer_events s
  case answers => exact tickTimer_answers s

/-! ## ISSUE (R801, R802, R1004) -/

theorem timeoutIllegal_eq_true {t : Word} (h : 0x80000000 ≤ t.toNat) : timeoutIllegal t = true := by
  simp only [timeoutIllegal, decide_eq_true_eq, BitVec.le_def, BitVec.toNat_ofNat]
  omega

/-- An ISSUE that passes every check and whose frame the transport did not take, as one explicit state (R801). -/
theorem issueCommand_eq_issueFailed (k : Kind) {t : Word} {p : List Byte} {s : State} (hc : s.connected = true)
    (ht : t.toNat ≤ 0x7FFFFFFF) (hp : p.length ≤ 4092) : issueCommand k t p false s = issueFailed k p s := by
  have hfits : ¬ pMax < p.length := by unfold pMax; omega
  simp only [issueCommand, timeoutIllegal_eq_false ht, Bool.false_eq_true, if_neg hfits, if_pos hc, if_false, finishWait_eq]
  cases k <;> rfl

/-- Settles O53: the five outcomes, in the order of the checks. -/
theorem issueSupersedesSendsAndRegisters : Obligations.IssueSupersedesSendsAndRegisters := by
  intro s k t p wrOk
  refine ⟨fun ht => congrArg Host.Outcome.next ?illegal, fun ht hp => congrArg Host.Outcome.next ?encodeError,
    fun ht hp hc => congrArg Host.Outcome.next ?notConnected, fun ht hp hc => congrArg _ (issueCommand_eq_issued k hc ht hp),
    fun ht hp hc => congrArg _ (issueCommand_eq_issueFailed k hc ht hp)⟩
  case illegal => exact if_pos (timeoutIllegal_eq_true ht)
  case encodeError =>
    have hlong : pMax < p.length := hp
    simp only [issueCommand, timeoutIllegal_eq_false ht, Bool.false_eq_true, if_false, if_pos hlong]
    rfl
  case notConnected =>
    have hfits : ¬ pMax < p.length := Nat.not_lt.mpr hp
    simp only [issueCommand, timeoutIllegal_eq_false ht, Bool.false_eq_true, if_false, if_neg hfits, hc]
    rfl

/-! ## What every instruction does to the waits: ends some, or registers one (R805) -/

/-- From `s` to `t` each wait stayed as it was or ended, and none was registered. -/
structure OnlySettles (s t : State) : Prop where
  wait : ∀ k, WaitKept k s t ∨ ∃ e, WaitEnds k e s t
  registers : RegistersNothing s t

section

variable {r s t : State}

theorem WaitEnds.trans_settled {k : Kind} {e : Ending} (hrs : WaitEnds k e r s)
    (hst : WaitKept k s t ∨ ∃ e', WaitEnds k e' s t) : WaitEnds k e r t := by
  rcases hst with hkept | ⟨_, hends⟩
  · exact hrs.trans_kept hkept
  · exact hrs.trans_kept (hends.kept_of_idle hrs.slot)

namespace OnlySettles

theorem of_kept (wait : ∀ k, WaitKept k s t) (registers : RegistersNothing s t) : OnlySettles s t :=
  ⟨fun k => .inl (wait k), registers⟩

theorem of_answer (s : State) {a : Answer} (ha : ∀ g, registrationsWith g [a] = 0) : OnlySettles s (s.answer a) :=
  of_kept (fun _ => .answer s a) (.of_answer rfl rfl ha)

protected theorem refl (s : State) : OnlySettles s s := of_kept (fun k => .refl k s) (.of_eq rfl rfl)

protected theorem setRxbuf (s : State) (ch : Channel) (b : List Byte) : OnlySettles s (s.setRxbuf ch b) :=
  of_kept (fun _ => .setRxbuf s ch b) (.of_eq (by simp) (by simp))

/-- The inputs still to come play no part in what the waits are. -/
protected theorem setInputs (s : State) (l : List Input) : OnlySettles s (s.setInputs l) :=
  of_kept (fun _ => .setInputs s l) (.of_eq rfl rfl)

protected theorem trans (hrs : OnlySettles r s) (hst : OnlySettles s t) : OnlySettles r t where
  wait k := by
    rcases hrs.wait k with hkept | ⟨e, hends⟩
    · rcases hst.wait k with hkept' | ⟨e, hends⟩
      · exact .inl (hkept.trans hkept')
      · exact .inr ⟨e, hkept.trans_ends hends⟩
    · exact .inr ⟨e, hends.trans_settled (hst.wait k)⟩
  registers :=
    { seq := hst.registers.seq.trans hrs.registers.seq
      registrations := fun g => (hst.registers.registrations g).trans (hrs.registers.registrations g) }

protected theorem finishWait (k : Kind) (e : Ending) (s : State) : OnlySettles s (finishWait k e s) where
  wait j := by
    by_cases hj : j = k
    · subst hj
      exact .inr ⟨e, finishWait_ends j e s⟩
    · exact .inl (.finishWait hj e s)
  registers := .of_eq (by simp) (by simp)

protected theorem tickTimer (s : State) : OnlySettles s (tickTimer s) where
  wait k := (tickTimer_wait k s).imp_right fun ⟨hends, _⟩ => ⟨_, hends⟩
  registers := .of_eq (by simp) (by simp)

protected theorem tickTimes (n : Nat) (s : State) : OnlySettles s (tickTimes n s) :=
  tickTimes_keeps (fun u hu => hu.trans (.tickTimer u)) n (.refl s)

protected theorem disconnectBlock (s : State) : OnlySettles s (disconnectBlock s) where
  wait k := (disconnectBlock_wait k s).imp_right fun ⟨hends, _⟩ => ⟨_, hends⟩
  registers := .disconnectBlock s

/-- A frame can end a wait of a kind of its channel only. -/
protected theorem dispatch (ch : Channel) (s : State) (f : Frame) : OnlySettles s (dispatch ch s f) where
  wait k := by
    by_cases hch : kindChannel k = ch
    · subst hch
      exact (dispatch_wait k s f).imp_right fun ⟨_, _, hends⟩ => ⟨_, hends⟩
    · exact .inl (dispatch_waitKept hch s f)
  registers := .of_eq (by simp) (by simp)

protected theorem receive (ch : Channel) (c : List Byte) (s : State) : OnlySettles s (receive ch c s) :=
  receive_keeps (fun u f hu => hu.trans (.dispatch ch u f)) c (.setRxbuf s ch _) (.refl s)

protected theorem receiveFrame (ch : Channel) (id : Byte) (p : List Byte) (s : State) :
    OnlySettles s (receiveFrame ch id p s) := by
  rcases receiveFrame_cases ch id p s with ⟨_, h⟩ | ⟨_, h⟩ <;> rw [h]
  · exact .refl s
  · exact receiveStep_keeps (fun u f hu => hu.trans (.dispatch ch u f)) _ (.setRxbuf s ch _)

/-- The old wait of the kind superseded, and the frame handed to the transport (R801, R803). -/
theorem of_write (k : Kind) (ch : Channel) (frame : List Byte) (s : State) :
    OnlySettles s ((finishWait k .superseded s).emit (.txFrame ch frame)) :=
  (OnlySettles.finishWait k .superseded s).trans (of_kept (fun _ => .emit _ rfl) (.of_eq rfl rfl))

end OnlySettles

/-- From `s` to `t` waits at most ended, but that then one with the legal timeout `T` was registered in an Idle slot. -/
def RegistersAfterSettling (s t : State) : Prop :=
  ∃ k T u, timeoutIllegal T = false ∧ OnlySettles s u ∧ u.slot k = .idle ∧ t = registerWait k T u

theorem issueCommand_settles_or_registers (k : Kind) (T : Word) (p : List Byte) (w : Bool) (s : State) :
    OnlySettles s (issueCommand k T p w s) ∨ RegistersAfterSettling s (issueCommand k T p w s) := by
  rcases issueCommand_cases k T p w s with
    ⟨_, h⟩ | ⟨_, _, h⟩ | ⟨_, _, _, h⟩ | ⟨hT, _, _, _, h⟩ | ⟨_, _, _, _, h⟩ <;> rw [h]
  · exact .inl (.of_answer s fun _ => rfl)
  · exact .inl (.of_answer s fun _ => rfl)
  · exact .inl (.of_answer s fun _ => rfl)
  · exact .inr ⟨k, T, _, hT, .of_write k _ _ s, by simp, rfl⟩
  · exact .inl ((OnlySettles.of_write k _ _ s).trans (.of_answer _ fun _ => rfl))

/-- Of all instructions only an ISSUE registers a wait, and only in a slot that is Idle by then. -/
theorem Action.settles_or_registers {i : Instr} (h : Action i s t) : OnlySettles s t ∨ RegistersAfterSettling s t := by
  cases h with
  | connect => exact .inl (.of_kept (fun k => connectBlock_waitKept k s) (.connectBlock s))
  | disconnect => exact .inl (.disconnectBlock s)
  | send _ ch id p w => exact .inl (.of_kept (fun k => sendFrame_waitKept k ch id p w s) (.sendFrame ch id p w s))
  | issue _ k T p w => exact issueCommand_settles_or_registers k T p w s
  | snapshot => exact .inl (.of_answer s fun _ => rfl)
  | illegal => exact .inl (.of_answer s fun _ => rfl)
  | receive _ ch c => exact .inl (.receive ch c s)
  | frame _ ch id p => exact .inl (.receiveFrame ch id p s)
  | error _ ch => exact .inl (.of_kept (fun k => receiveError_waitKept k ch s) (.receiveError ch s))
  | tick => exact .inl (.tickTimer s)
  | ticks _ n => exact .inl (.tickTimes n s)

@[simp] theorem registerWait_now (k : Kind) (T : Word) (s : State) : (registerWait k T s).now = s.now := by
  simp [registerWait_eq]

theorem registerWait_slot (k : Kind) (T : Word) (s : State) (j : Kind) :
    (registerWait k T s).slot j = if j = k then .sent (s.now + timeoutTicks T) s.seq else s.slot j := by
  simp [registerWait_eq, State.setSlot_slot]

/-! ## Deadlines (R802, R806, R807) -/

/-- The ticks of a legal TIMEOUT word are 1 to T_MAX, T_DEFAULT among them (R802). -/
theorem timeoutTicks_bounds {T : Word} (h : timeoutIllegal T = false) :
    1 ≤ (timeoutTicks T).toNat ∧ (timeoutTicks T).toNat ≤ 0x7FFFFFFF := by
  simp only [timeoutIllegal, decide_eq_false_iff_not] at h
  unfold timeoutTicks
  split
  · decide
  · bv_omega

/-- Of the deadlines 1 to T_MAX ticks ahead the next tick reaches exactly the nearest (R807). -/
theorem expired_next_iff {n d : Word} (hpos : 1 ≤ (d - n).toNat) (hmax : (d - n).toNat ≤ 0x7FFFFFFF) :
    0 ≤ (n + 1#32 - d).toInt ↔ (d - n).toNat = 1 := by
  simp only [← expired_iff, expired, decide_eq_true_eq]
  bv_omega

/-- Each tick brings a deadline one tick nearer, across the wrap of the timer. -/
theorem ticksAhead_next {n d : Word} (hpos : 1 ≤ (d - n).toNat) : (d - (n + 1#32)).toNat = (d - n).toNat - 1 := by
  bv_omega

/-- A wait that is live after the tick was live before it, and its deadline is not reached. -/
theorem slotAt_eq_sent_iff {n d : Word} {g : Half} {x : Slot} :
    slotAt n x = .sent d g ↔ x = .sent d g ∧ ¬ 0 ≤ (n - d).toInt := by
  cases x with
  | idle => simp [slotAt]
  | sent d' g' =>
    simp only [slotAt]
    split
    · next h => simp only [reduceCtorEq, false_iff, Slot.sent.injEq]; rintro ⟨⟨rfl, rfl⟩, hn⟩; exact hn h
    · next h => simp only [Slot.sent.injEq, iff_self_and]; rintro ⟨rfl, rfl⟩; exact h

namespace DeadlinesAhead

protected theorem of_settles (h : DeadlinesAhead s) (hst : OnlySettles s t) (hnow : t.now = s.now) : DeadlinesAhead t := by
  intro k d g hslot
  rcases hst.wait k with hkept | ⟨_, hends⟩
  · rw [hnow]
    exact h k d g (hkept.slot.symm.trans hslot)
  · rw [hends.slot] at hslot
    cases hslot

protected theorem registerWait (h : DeadlinesAhead s) (k : Kind) {T : Word} (hT : timeoutIllegal T = false) :
    DeadlinesAhead (registerWait k T s) := by
  intro j d g hslot
  rw [registerWait_slot] at hslot
  rw [registerWait_now]
  split at hslot
  · cases hslot
    simpa only [add_sub_cancel_left] using timeoutTicks_bounds hT
  · exact h j d g hslot

protected theorem tickTimer (h : DeadlinesAhead s) : DeadlinesAhead (tickTimer s) := by
  intro k d g hslot
  rw [tickTimer_slot, slotAt_eq_sent_iff] at hslot
  obtain ⟨hlive, hfuture⟩ := hslot
  obtain ⟨hpos, hmax⟩ := h k d g hlive
  rw [expired_next_iff hpos hmax] at hfuture
  rw [tickTimer_now, ticksAhead_next hpos]
  omega

end DeadlinesAhead

/-- An instruction leaves the timer alone, or is a number of ticks. -/
theorem Action.now_eq_or_ticks {i : Instr} (h : Action i s t) : t.now = s.now ∨ ∃ n, t = tickTimes n s := by
  cases h with
  | connect => exact .inl (connectBlock_now s)
  | disconnect => exact .inl (disconnectBlock_now s)
  | send _ ch id p w => exact .inl (sendFrame_now ch id p w s)
  | issue _ k T p w => exact .inl (issueCommand_now k T p w s)
  | snapshot => exact .inl rfl
  | illegal => exact .inl rfl
  | receive _ ch c => exact .inl (receive_now ch c s)
  | frame _ ch id p => exact .inl (receiveFrame_now ch id p s)
  | error _ ch => exact .inl (receiveError_now ch s)
  | tick => exact .inr ⟨1, rfl⟩
  | ticks _ n => exact .inr ⟨n, rfl⟩

theorem Action.deadlinesAhead {i : Instr} (h : Action i s t) (hs : DeadlinesAhead s) : DeadlinesAhead t := by
  rcases h.now_eq_or_ticks with hnow | ⟨n, rfl⟩
  · rcases h.settles_or_registers with hst | ⟨k, T, u, hT, hsu, _, rfl⟩
    · exact hs.of_settles hst hnow
    · exact (hs.of_settles hsu ((registerWait_now k T u).symm.trans hnow)).registerWait k hT
  · exact tickTimes_keeps (fun _ hu => hu.tickTimer) n hs

/-! ## One outcome for each registered wait (R805) -/

/-- How many waits of kind `k` with the tag `g` have completed or are live. -/
def outcomesOf (g : Half) (s : State) (k : Kind) : Nat :=
  ((completionsOf k s.events).map Prod.fst).count g + slotHolds g (s.slot k)

theorem completionsWith_eq_sum (g : Half) (evs : List Event) :
    completionsWith g evs = (Kind.all.map fun k => ((completionsOf k evs).map Prod.fst).count g).sum := by
  induction evs with
  | nil => rfl
  | cons x evs ih =>
    cases x with
    | completion k tag e =>
      rw [completionsWith, ih]
      cases k <;> simp [Kind.all, completionsOf, List.count_cons] <;> omega
    | txFrame ch bytes => exact ih
    | statusChanged d => exact ih
    | transportError ch => exact ih

theorem outcomesBalance_iff :
    OutcomesBalance s ↔ ∀ g, registrationsWith g s.answers = (Kind.all.map (outcomesOf g s)).sum := by
  refine forall_congr' fun g => ?_
  have hsum : completionsWith g s.events + liveWith g s = (Kind.all.map (outcomesOf g s)).sum := by
    rw [completionsWith_eq_sum]
    simp only [Kind.all, liveWith, outcomesOf, List.map_cons, List.map_nil, List.sum_cons, List.sum_nil]
    omega
  rw [hsum]

theorem WaitKept.outcomesOf_eq {k : Kind} (h : WaitKept k s t) (g : Half) : outcomesOf g t k = outcomesOf g s k := by
  rw [outcomesOf, outcomesOf, h.slot, h.completions]

theorem count_endedBy (g : Half) (e : Ending) (x : Slot) : ((endedBy e x).map Prod.fst).count g = slotHolds g x := by
  cases x with
  | idle => rfl
  | sent d tag => simp [endedBy, slotHolds, List.count_singleton]

/-- The end of a wait moves it from the live ones to the completed ones. -/
theorem WaitEnds.outcomesOf_eq {k : Kind} {e : Ending} (h : WaitEnds k e s t) (g : Half) :
    outcomesOf g t k = outcomesOf g s k := by
  rw [outcomesOf, outcomesOf, h.slot, h.completions, List.map_append, List.count_append, count_endedBy]
  rfl

namespace OutcomesBalance

protected theorem of_settles (h : OutcomesBalance s) (hst : OnlySettles s t) : OutcomesBalance t := by
  rw [outcomesBalance_iff] at h ⊢
  intro g
  have hsame : outcomesOf g t = outcomesOf g s := by
    funext k
    rcases hst.wait k with hkept | ⟨_, hends⟩
    · exact hkept.outcomesOf_eq g
    · exact hends.outcomesOf_eq g
  rw [hst.registers.registrations, hsame, h]

/-- A registration adds one to the registered waits and one to the live ones. -/
protected theorem registerWait (h : OutcomesBalance s) {k : Kind} (hidle : s.slot k = .idle) (T : Word) :
    OutcomesBalance (registerWait k T s) := by
  intro g
  have hlive : liveWith g (registerWait k T s) = liveWith g s + if s.seq = g then 1 else 0 := by
    cases k <;> simp [liveWith, registerWait_slot, hidle, slotHolds] <;> omega
  rw [hlive]
  simp only [registerWait_eq, State.answer_answers, State.answer_events, State.setSlot_answers, State.setSlot_events,
    State.setSeq_answers, State.setSeq_events, registrationsWith_append, registrationsWith, h g]
  omega

end OutcomesBalance

theorem Action.outcomesBalance {i : Instr} (h : Action i s t) (hs : OutcomesBalance s) : OutcomesBalance t := by
  rcases h.settles_or_registers with hst | ⟨k, T, u, _, hsu, hidle, rfl⟩
  · exact hs.of_settles hst
  · exact (hs.of_settles hsu).registerWait hidle T

end

/-- Settles O16: waits at most end, a new deadline is a legal timeout ahead, and a tick that reaches a deadline ends its wait. -/
theorem noLiveWaitIsOverdue : Obligations.NoLiveWaitIsOverdue := fun _ _ hs hstep =>
  step_keeps (P := DeadlinesAhead) (fun u l hu => hu.of_settles (.setInputs u l) rfl)
    (fun u hu => hu.of_settles (.of_answer u fun _ => rfl) rfl) Action.deadlinesAhead hs hstep

/-- Settles O17: an ending moves a wait from the live ones to the completed ones, a registration adds a live one. -/
theorem everyRegisteredWaitHasOneOutcome : Obligations.EveryRegisteredWaitHasOneOutcome := fun _ _ hs hstep =>
  step_keeps (P := OutcomesBalance) (fun u l hu => hu.of_settles (.setInputs u l))
    (fun u hu => hu.of_settles (.of_answer u fun _ => rfl)) Action.outcomesBalance hs hstep

/-! ## What the next tick does to a live wait (R806, R807) -/

section

variable {s t : State} {k : Kind} {d : Word} {g : Half}

theorem tickTimer_waitKept (hlive : s.slot k = .sent d g) (hfuture : ¬ 0 ≤ (s.now + 1#32 - d).toInt) :
    WaitKept k s (tickTimer s) := by
  rcases tickTimer_wait k s with hkept | ⟨_, hdue⟩
  · exact hkept
  · exact absurd ((expired_iff _ _).1 (hdue d g hlive)) hfuture

theorem tickTimer_waitEnds (hlive : s.slot k = .sent d g) (hdue : 0 ≤ (s.now + 1#32 - d).toInt) :
    WaitEnds k .timeout s (tickTimer s) := by
  rcases tickTimer_wait k s with hkept | ⟨hends, _⟩
  · have hstill := hkept.slot.trans hlive
    rw [tickTimer_slot, slotAt_eq_sent_iff] at hstill
    exact absurd hdue hstill.2
  · exact hends

/-! ## A wait of T ticks (R807, R317) -/

theorem tickTimes_waitKept {j : Nat} (hlive : s.slot k = .sent d g) (hmax : (d - s.now).toNat ≤ 0x7FFFFFFF)
    (hj : j < (d - s.now).toNat) : WaitKept k s (tickTimes j s) := by
  induction j generalizing s with
  | zero => exact .refl k s
  | succ j ih =>
    have hpos : 1 ≤ (d - s.now).toNat := by omega
    have hfuture : ¬ 0 ≤ (s.now + 1#32 - d).toInt := by
      rw [expired_next_iff hpos hmax]
      omega
    have hnearer := ticksAhead_next hpos
    have hfirst := tickTimer_waitKept hlive hfuture
    have hrest := ih (hfirst.slot.trans hlive) (by rw [tickTimer_now]; omega) (by rw [tickTimer_now]; omega)
    exact hfirst.trans hrest

theorem tickTimes_succ (n : Nat) (s : State) : tickTimes (n + 1) s = tickTimer (tickTimes n s) := by
  induction n generalizing s with
  | zero => rfl
  | succ n ih => exact ih (tickTimer s)

theorem tickTimes_waitEnds (hlive : s.slot k = .sent d g) (hpos : 1 ≤ (d - s.now).toNat)
    (hmax : (d - s.now).toNat ≤ 0x7FFFFFFF) : WaitEnds k .timeout s (tickTimes (d - s.now).toNat s) := by
  obtain ⟨n, hn⟩ := Nat.exists_eq_add_of_lt hpos
  rw [Nat.zero_add] at hn
  have hkept := tickTimes_waitKept (j := n) hlive hmax (by omega)
  have hdue : 0 ≤ ((tickTimes n s).now + 1#32 - d).toInt := by
    have hreached : s.now + BitVec.ofNat 32 n + 1#32 = d := by bv_omega
    rw [tickTimes_now, hreached, sub_self]
    decide
  rw [hn, tickTimes_succ]
  exact hkept.trans_ends (tickTimer_waitEnds (hkept.slot.trans hlive) hdue)

protected theorem OnlyAdds.trans {r : State} (hrs : OnlyAdds r s) (hst : OnlyAdds s t) : OnlyAdds r t :=
  ⟨hst.inputs.trans hrs.inputs, hrs.events.trans hst.events, hrs.answers.trans hst.answers⟩

/-- The completions of a kind among the events added, from those before and after. -/
theorem completionsOf_added (h : OnlyAdds s t) {l : List (Half × Ending)}
    (hl : completionsOf k t.events = completionsOf k s.events ++ l) :
    completionsOf k (t.events.drop s.events.length) = l := by
  obtain ⟨evs, hevs⟩ := h.events
  rw [← hevs, completionsOf_append] at hl
  rw [← hevs, List.drop_left]
  exact List.append_cancel_left hl

theorem WaitKept.added (h : WaitKept k s t) (hadds : OnlyAdds s t) :
    completionsOf k (t.events.drop s.events.length) = [] :=
  completionsOf_added hadds (by rw [h.completions, List.append_nil])

theorem WaitEnds.added {e : Ending} (h : WaitEnds k e s t) (hadds : OnlyAdds s t) (hlive : s.slot k = .sent d g) :
    completionsOf k (t.events.drop s.events.length) = [(g, e)] :=
  completionsOf_added hadds (by rw [h.completions, hlive]; rfl)

end

/-- Settles O57: every tick before the T-th leaves the deadline ahead, and the T-th reaches it. -/
theorem waitTimesOutOnExactlyItsLastTick : Obligations.WaitTimesOutOnExactlyItsLastTick := by
  intro s k g T hlive hpos hmax
  have hadds (n : Nat) : OnlyAdds s (tickTimes n s) := (OnlyAdds.refl s).tickTimes n
  have hahead : s.now + T - s.now = T := add_sub_cancel_left _ _
  refine ⟨fun j hj => ⟨_, rfl, ?_⟩, ⟨_, rfl, ?_⟩⟩
  · have hkept : WaitKept k s (tickTimes j s) := tickTimes_waitKept hlive (by rwa [hahead]) (by rwa [hahead])
    exact ⟨hkept.slot.trans hlive, tickTimes_now j s, hkept.added (hadds j)⟩
  · have hends := tickTimes_waitEnds hlive (by rwa [hahead]) (by rwa [hahead])
    rw [hahead] at hends
    exact ⟨hends.slot, by rw [tickTimes_now, BitVec.ofNat_toNat, BitVec.setWidth_eq], hends.added (hadds _) hlive⟩

/-! ## A receive that brings the kind's signal (R804, R808) -/

section

variable {s t : State} {k : Kind} {i : Instr} {v : Byte} {snap : DeviceStatus}

/-- A frame that is the kind's signal ends its wait, if it is live. -/
theorem dispatch_ends_of_signals {f : Frame} (h : Signals s.config s.status f k v) :
    WaitEnds k (.success v (dispatch (kindChannel k) s f).status) s (dispatch (kindChannel k) s f) := by
  obtain ⟨e, he, hv⟩ := (signals_iff _ _ _ _ _).1 h
  have heq : dispatch (kindChannel k) s f = finishWait k (.success v e.status) (updateStatus e.status s) := by
    simp only [dispatch, he, hv, resolveSignal, resolve_eq, updateStatus_status]
  rw [heq, finishWait_status, updateStatus_status]
  exact (WaitKept.updateStatus _ s).trans_ends (finishWait_ends k _ _)

theorem dispatchAll_config (ch : Channel) (fs : List Frame) (s : State) : (fs.foldl (dispatch ch) s).config = s.config :=
  dispatchAll_keeps (P := fun u => u.config = s.config) (fun _ _ h => by simp [h]) fs rfl

theorem dispatchAll_settles (ch : Channel) (fs : List Frame) (s : State) : OnlySettles s (fs.foldl (dispatch ch) s) :=
  dispatchAll_keeps (fun u f hu => hu.trans (.dispatch ch u f)) fs (.refl s)

/-- Of all the frames brought it is the resolving one that decides the ending: those before it left the wait as it was, and
those after it find the slot Idle. -/
theorem ResolvedBy.ends {fs : List Frame} (h : ResolvedBy s fs k v snap) :
    WaitEnds k (.success v snap) s (fs.foldl (dispatch (kindChannel k)) s) := by
  obtain ⟨before, f, after, rfl, hslot, hsignal, rfl⟩ := h
  have hbefore : WaitKept k s (before.foldl (dispatch (kindChannel k)) s) := by
    rcases (dispatchAll_settles (kindChannel k) before s).wait k with hkept | ⟨_, hends⟩
    · exact hkept
    · exact hends.kept_of_idle (hslot.symm.trans hends.slot)
  rw [List.foldl_append, List.foldl_cons]
  rw [← dispatchAll_config (kindChannel k) before s] at hsignal
  exact (hbefore.trans_ends (dispatch_ends_of_signals hsignal)).trans_settled
    ((dispatchAll_settles (kindChannel k) after _).wait k)

theorem received_waitEnds (hr : receivedOn i = some (kindChannel k)) (hres : ResolvedBy s (framesBrought s i) k v snap)
    (hx : exec i s = .next t) : WaitEnds k (.success v snap) s t := by
  rcases received_cases hr s with ⟨hnone, _⟩ | ⟨b, heq⟩
  · obtain ⟨before, f, after, hfs, _⟩ := hres
    simp [hnone] at hfs
  · rw [heq] at hx
    cases hx
    have hsame : SameRegistry (s.setRxbuf (kindChannel k) b) s := ⟨by simp, by simp, by simp⟩
    exact (WaitKept.setRxbuf s _ b).trans_ends (hsame.resolvedBy hres).ends

/-- A receive leaves the connection, the timer and the tag counter alone. -/
theorem received_unchanged {ch : Channel} (hr : receivedOn i = some ch) (hx : exec i s = .next t) :
    t.connected = s.connected ∧ t.now = s.now ∧ t.seq = s.seq := by
  rcases received_cases hr s with ⟨_, heq⟩ | ⟨b, heq⟩ <;> rw [heq] at hx <;> cases hx
  · exact ⟨rfl, rfl, rfl⟩
  · exact dispatchAll_keeps (P := fun u => u.connected = s.connected ∧ u.now = s.now ∧ u.seq = s.seq)
      (fun _ _ h => by simpa using h) _ (by simp)

theorem framesBrought_of_disconnected (h : s.connected = false) (i : Instr) : framesBrought s i = [] := by
  cases i <;> simp [framesBrought, framesOfMessage, rxEnabled, h]

/-- A frame that resolves a wait comes while connected. -/
theorem ResolvedBy.connected (h : ResolvedBy s (framesBrought s i) k v snap) : s.connected = true := by
  obtain ⟨before, f, after, hfs, _⟩ := h
  by_contra hoff
  rw [framesBrought_of_disconnected (Bool.eq_false_of_not_eq_true hoff)] at hfs
  simp at hfs

/-! ## The status after a receive does not depend on the waits (R711, R808) -/

theorem dispatch_status (ch : Channel) (s : State) (f : Frame) :
    (dispatch ch s f).status = ((interpret s.config ch f s.status).map Effect.status).getD s.status := by
  rcases dispatch_cases ch s f with ⟨hnone, heq⟩ | ⟨e, he, heq⟩
  · simp [heq, hnone]
  · simp [heq, he]

theorem dispatchAll_status_congr (ch : Channel) (fs : List Frame) (hconfig : t.config = s.config)
    (hstatus : t.status = s.status) : (fs.foldl (dispatch ch) t).status = (fs.foldl (dispatch ch) s).status := by
  induction fs generalizing s t with
  | nil => exact hstatus
  | cons f fs ih =>
    exact ih (by rw [dispatch_config, dispatch_config, hconfig])
      (by rw [dispatch_status, dispatch_status, hconfig, hstatus])

theorem received_status {ch : Channel} (hr : receivedOn i = some ch) (hx : exec i s = .next t) :
    t.status = ((framesBrought s i).foldl (dispatch ch) s).status := by
  rcases received_cases hr s with ⟨hnone, heq⟩ | ⟨b, heq⟩ <;> rw [heq] at hx <;> cases hx
  · rw [hnone, List.foldl_nil]
  · exact dispatchAll_status_congr ch _ (by simp) (by simp)

theorem framesBrought_tickTimer (s : State) (i : Instr) : framesBrought (tickTimer s) i = framesBrought s i := by
  cases i <;> simp [framesBrought, framesOfMessage, rxEnabled]

/-- A tick before a receive does not change the status after it. -/
theorem received_status_tickTimer {u : State} {ch : Channel} (hr : receivedOn i = some ch) (hx : exec i s = .next t)
    (hx' : exec i (tickTimer s) = .next u) : u.status = t.status := by
  rw [received_status hr hx, received_status hr hx', framesBrought_tickTimer]
  exact dispatchAll_status_congr ch _ (tickTimer_config s) (tickTimer_status s)

end

/-! ## A newer wait, tested against its own deadline (R808) -/

section

variable {s : State} {k : Kind} {T : Word} {p : List Byte}

theorem issued_slot (k : Kind) (T : Word) (p : List Byte) (s : State) :
    (issued k T p s).slot k = .sent (s.now + timeoutTicks T) s.seq := State.setSlot_slot_self _ k _

theorem issued_now (k : Kind) (T : Word) (p : List Byte) (s : State) : (issued k T p s).now = s.now := State.setSlot_now _ k _

/-- An ISSUE into an Idle slot supersedes nothing. -/
theorem completionsOf_issued_of_idle (hidle : s.slot k = .idle) :
    completionsOf k (issued k T p s).events = completionsOf k s.events := by
  simp [issued, supersededEvents, hidle, issueFrame, completionsOf_append, completionsOf]

/-- Of all timeouts only that of one tick is reached by the next tick. -/
theorem timeoutTicks_due_iff (n : Word) (hT : timeoutIllegal T = false) :
    0 ≤ (n + 1#32 - (n + timeoutTicks T)).toInt ↔ T = 1#32 := by
  obtain ⟨hpos, hmax⟩ := timeoutTicks_bounds hT
  have hahead : n + timeoutTicks T - n = timeoutTicks T := add_sub_cancel_left _ _
  rw [expired_next_iff (by rwa [hahead]) (by rwa [hahead]), hahead]
  unfold timeoutTicks
  split
  · next h => subst h; decide
  · exact BitVec.toNat_inj (y := 1#32)

/-- The tick after an ISSUE into an Idle slot: it ends the new wait where its timeout is one tick, and otherwise leaves it
live. -/
theorem tickTimer_issued_of_idle (p : List Byte) (hidle : s.slot k = .idle) (hT : timeoutIllegal T = false) :
    (T = 1#32 → (tickTimer (issued k T p s)).slot k = .idle ∧
      completionsOf k (tickTimer (issued k T p s)).events = completionsOf k s.events ++ [(s.seq, .timeout)]) ∧
    (T ≠ 1#32 → (tickTimer (issued k T p s)).slot k = .sent (s.now + timeoutTicks T) s.seq ∧
      completionsOf k (tickTimer (issued k T p s)).events = completionsOf k s.events) := by
  have hslot := issued_slot k T p s
  have hold := completionsOf_issued_of_idle (T := T) (p := p) hidle
  have hdue : 0 ≤ ((issued k T p s).now + 1#32 - (s.now + timeoutTicks T)).toInt ↔ T = 1#32 := by
    rw [issued_now]
    exact timeoutTicks_due_iff s.now hT
  refine ⟨fun hone => ?due, fun hmore => ?live⟩
  case due =>
    have hends := tickTimer_waitEnds hslot (hdue.2 hone)
    exact ⟨hends.slot, by rw [hends.completions, hold, hslot]; rfl⟩
  case live =>
    have hkept := tickTimer_waitKept hslot (mt hdue.1 hmore)
    exact ⟨hkept.slot.trans hslot, hkept.completions.trans hold⟩

end

/-- Settles O59: whichever comes first ends the wait, and what comes second finds the slot Idle; the tick after a newer ISSUE
is compared with the newer deadline. -/
theorem firstToOccurWins : Obligations.FirstToOccurWins := by
  intro s k d g i v snap hlive hdue hr hres
  obtain ⟨received, hreceived, haction⟩ := exec_action i s
  obtain ⟨lateReceived, hlate, haction'⟩ := exec_action i (tickTimer s)
  have hadds : OnlyAdds s received := haction.onlyAdds
  have hlateAdds : OnlyAdds s lateReceived := ((OnlyAdds.refl s).tickTimer).trans haction'.onlyAdds
  have hsuccess : WaitEnds k (.success v snap) s received := received_waitEnds hr hres hreceived
  have hreceiveFirst : WaitEnds k (.success v snap) s (tickTimer received) :=
    hsuccess.trans_settled ((OnlySettles.tickTimer received).wait k)
  have htickFirst : WaitEnds k .timeout s lateReceived :=
    (tickTimer_waitEnds hlive hdue).trans_settled
      ((received_wait hr hlate k).imp_right fun ⟨_, _, _, _, hends⟩ => ⟨_, hends⟩)
  refine ⟨received, _, _, lateReceived, hreceived, rfl, rfl, hlate, hreceiveFirst.slot,
    hreceiveFirst.added hadds.tickTimer hlive, htickFirst.slot, htickFirst.added hlateAdds hlive,
    received_status_tickTimer hr hreceived hlate, fun T p hT hp => ?newer⟩
  case newer =>
    obtain ⟨hconnected, hnow, hseq⟩ := received_unchanged hr hreceived
    have hissue := issueCommand_eq_issued k (hconnected.trans hres.connected) hT hp
    have hissueAdds : OnlyAdds s (tickTimer (issued k T p received)) :=
      hissue ▸ (hadds.issueCommand k T p true).tickTimer
    have hfirst : completionsOf k received.events = completionsOf k s.events ++ [(g, .success v snap)] := by
      rw [hsuccess.completions, hlive]
      rfl
    obtain ⟨hdueCase, hliveCase⟩ := tickTimer_issued_of_idle p hsuccess.slot (timeoutIllegal_eq_false hT)
    rw [hfirst, hnow, hseq] at hliveCase
    rw [hfirst, hseq, List.append_assoc] at hdueCase
    exact ⟨_, _, congrArg Host.Outcome.next hissue, rfl,
      fun hone => (hdueCase hone).imp_right (completionsOf_added hissueAdds),
      fun hmore => (hliveCase hmore).imp_right (completionsOf_added hissueAdds)⟩

end Sys2Proof.Machine

/-! # Connection (spec/45_connection.md): O51, O49, O50, O52, O55 -/

namespace Sys2Proof.Machine

/-! ## DISCONNECT (R901, R902) -/

/-- The cancelling walk over the kinds leaves no wait live. -/
theorem cancelAll_slot (s : State) (k : Kind) : (forEachKind (fun j => finishWait j .cancelled) s).slot k = .idle :=
  (cancelAll_ends k s).slot

/-- The cancelling walk emits its completions in kind order. -/
theorem cancelAll_events (s : State) :
    (forEachKind (fun j => finishWait j .cancelled) s).events =
      s.events ++ Kind.all.flatMap (fun k => cancelOf k (s.slot k)) := by
  have hvisit (k : Kind) (t : State) : (finishWait k .cancelled t).events = t.events ++ cancelOf k (t.slot k) := by
    rw [finishWait_events]
    cases t.slot k <;> rfl
  simp [forEachKind_eq, hvisit, Kind.all]

theorem cancelAll_status (s : State) : (forEachKind (fun j => finishWait j .cancelled) s).status = s.status := by
  simp [forEachKind_eq]

theorem disconnectBlock_slot (s : State) (k : Kind) :
    (disconnectBlock s).slot k = if s.connected then .idle else s.slot k := by
  rcases disconnectBlock_cases s with ⟨hc, h⟩ | ⟨hc, h⟩ <;> simp [h, hc, cancelAll_slot]

theorem disconnectBlock_events (s : State) :
    (disconnectBlock s).events =
      if s.connected then
        s.events ++ Kind.all.flatMap (fun k => cancelOf k (s.slot k)) ++
          (if s.status = unknownStatus then [] else [.statusChanged unknownStatus])
      else s.events := by
  rcases disconnectBlock_cases s with ⟨hc, h⟩ | ⟨hc, h⟩
  · simp [h, hc]
  · simp [h, hc, updateStatus_events, cancelAll_events, cancelAll_status, @eq_comm _ unknownStatus]

@[simp] theorem disconnectBlock_config (s : State) : (disconnectBlock s).config = s.config := by
  rcases disconnectBlock_cases s with ⟨_, h⟩ | ⟨_, h⟩ <;> simp [h, forEachKind_eq]

@[simp] theorem disconnectBlock_connected (s : State) : (disconnectBlock s).connected = false := by
  rcases disconnectBlock_cases s with ⟨hc, h⟩ | ⟨_, h⟩
  · simp [h, hc]
  · simp [h, forEachKind_eq]

@[simp] theorem disconnectBlock_answers (s : State) : (disconnectBlock s).answers = s.answers ++ [.ok] := by
  rcases disconnectBlock_cases s with ⟨_, h⟩ | ⟨_, h⟩ <;> simp [h, forEachKind_eq]

/-- Whatever the state before it, DISCONNECT leaves the status unknown and every slot Idle (R902, R1105). -/
theorem QuietWhenDisconnected.disconnectBlock_forgets {s : State} (h : QuietWhenDisconnected s) :
    (disconnectBlock s).status = unknownStatus ∧ ∀ k, (disconnectBlock s).slot k = .idle := by
  simp only [disconnectBlock_status, disconnectBlock_slot]
  cases hc : s.connected with
  | true => exact ⟨rfl, fun _ => rfl⟩
  | false =>
    obtain ⟨_, hidle, hunknown⟩ := h hc
    exact ⟨hunknown, hidle⟩

/-- Settles O51: no slot is live afterwards, so a wait that DISCONNECT left as it was had not been live. -/
theorem disconnectLeavesNoWaitHanging : Obligations.DisconnectLeavesNoWaitHanging := by
  intro s hquiet
  obtain ⟨hunknown, hidle⟩ := hquiet.disconnectBlock_forgets
  have hadds : OnlyAdds s (disconnectBlock s) := (OnlyAdds.refl s).disconnectBlock
  refine ⟨_, rfl, hunknown, hidle, fun k => ?completions⟩
  case completions =>
    rcases disconnectBlock_wait k s with hkept | ⟨hends, _⟩
    · rw [hkept.added hadds, hkept.slot.symm.trans (hidle k)]
    · rw [completionsOf_added hadds hends.completions]
      cases s.slot k <;> rfl

/-- Settles O50: of the connected case element by element; while disconnected only the result is new. -/
theorem disconnectStopsCancelsAndForgets : Obligations.DisconnectStopsCancelsAndForgets := by
  intro s
  refine ⟨fun hon => congrArg Host.Outcome.next (State.eq_of_elements ?config ?connected ?rxbuf ?status ?slot ?now ?seq
    ?inputs ?events ?answers), fun hoff => congrArg Host.Outcome.next ?disconnected⟩
  case config => exact disconnectBlock_config s
  case connected => exact disconnectBlock_connected s
  case rxbuf => intro ch; rw [disconnectBlock_rxbuf, if_pos hon]; cases ch <;> rfl
  case status => rw [disconnectBlock_status, if_pos hon]
  case slot => intro k; rw [disconnectBlock_slot, if_pos hon]; cases k <;> rfl
  case now => exact disconnectBlock_now s
  case seq => exact (RegistersNothing.disconnectBlock s).seq
  case inputs => exact ((OnlyAdds.refl s).disconnectBlock).inputs
  case events => rw [disconnectBlock_events, if_pos hon]
  case answers => exact disconnectBlock_answers s
  case disconnected => exact if_neg (Bool.eq_false_iff.mp hoff)

/-! ## CONNECT (R900) -/

/-- Settles O49. -/
theorem connectStartsUnknown : Obligations.ConnectStartsUnknown := by
  intro s
  rcases connectBlock_cases s with ⟨hon, hconnect⟩ | ⟨hoff, hconnect⟩
  · exact ⟨fun hoff => absurd (hon.symm.trans hoff) Bool.noConfusion, fun _ => congrArg Host.Outcome.next hconnect⟩
  · exact ⟨fun _ => congrArg Host.Outcome.next hconnect, fun hon => absurd (hon.symm.trans hoff) Bool.noConfusion⟩

/-! ## SEND (R903, R1004) -/

/-- A SEND that passes both checks, as one explicit state, whatever the transport answers. -/
theorem sendFrame_of_connected (ch : Channel) (id : Byte) {p : List Byte} (w : Bool) {s : State}
    (hp : p.length ≤ 4092) (hc : s.connected = true) :
    sendFrame ch id p w s = sentFrame ch id p (if w then .ok else .writeError) s := by
  rcases sendFrame_cases ch id p w s with ⟨hlong, _⟩ | ⟨_, hoff, _⟩ | ⟨_, _, heq⟩
  · exact absurd hlong (Nat.not_lt.mpr hp)
  · exact absurd (hc.symm.trans hoff) Bool.noConfusion
  · exact heq

/-- Settles O52: the two checks in their order, and the frame handed over with either answer of the transport. -/
theorem sendTransmitsOneFrame : Obligations.SendTransmitsOneFrame := by
  intro s ch id p wrOk
  refine ⟨fun hlong => congrArg Host.Outcome.next ?encodeError, fun hp hoff => congrArg Host.Outcome.next ?notConnected,
    fun hp hc => congrArg _ (sendFrame_of_connected ch id true hp hc),
    fun hp hc => congrArg _ (sendFrame_of_connected ch id false hp hc)⟩
  case encodeError => exact if_pos hlong
  case notConnected => exact (if_neg (Nat.not_lt.mpr hp)).trans (if_neg (Bool.eq_false_iff.mp hoff))

/-! ## SNAPSHOT (R904) -/

/-- The weight of a slot's flag. -/
theorem slotWeight_eq (x : Slot) (weight : Nat) :
    (if x = .idle then 0 else weight) = if slotSent x = true then weight else 0 := by
  cases x <;> rfl

/-- FLAGS as the sum of its bits' weights (R116). -/
theorem joinedFlags_eq_ofNat : ∀ test ambient anc noise connected : Bool,
    0#27 ++ BitVec.ofBool test ++ BitVec.ofBool ambient ++ BitVec.ofBool anc ++ BitVec.ofBool noise
        ++ BitVec.ofBool connected =
      BitVec.ofNat 32 ((if connected = true then 1 else 0) + (if noise = true then 2 else 0) +
        (if anc = true then 4 else 0) + (if ambient = true then 8 else 0) + (if test = true then 16 else 0)) := by
  decide

/-- Settles O55: the bits of FLAGS are the connection flag and the four slot states. -/
theorem snapshotReadsEverythingAtOnce : Obligations.SnapshotReadsEverythingAtOnce := by
  intro s
  have hflags := joinedFlags_eq_ofNat (slotSent (s.slot .testConn)) (slotSent (s.slot .ambientLevel))
    (slotSent (s.slot .ancLevel)) (slotSent (s.slot .noise)) s.connected
  simp only [← slotWeight_eq] at hflags
  rw [← hflags]
  rfl

end Sys2Proof.Machine

/-! # Exceptions (spec/60_exceptions.md): O23, O8 -/

namespace Sys2Proof.Machine

/-! ## Every change of the status is reported (R709, R1010) -/

/-- From `s` on the events report the status: `t` has the one last reported since, or that of `s` where none was. -/
def StatusReported (s t : State) : Prop :=
  ∃ evs, t.events = s.events ++ evs ∧ t.status = (statusChanges evs).getLast?.getD s.status

namespace StatusReported

variable {r s t : State}

protected theorem refl (s : State) : StatusReported s s := ⟨[], by simp, rfl⟩

protected theorem trans (hrs : StatusReported r s) (hst : StatusReported s t) : StatusReported r t := by
  obtain ⟨evs, hevents, hstatus⟩ := hrs
  obtain ⟨evs', hevents', hstatus'⟩ := hst
  refine ⟨evs ++ evs', by rw [hevents', hevents, List.append_assoc], ?_⟩
  rw [hstatus', hstatus, statusChanges_append, List.getLast?_append]
  cases (statusChanges evs').getLast? <;> rfl

/-- Where the status stays, no StatusChanged is due. -/
theorem of_events_append (h : StatusReported r s) (hstatus : t.status = s.status) {added : List Event}
    (hevents : t.events = s.events ++ added) (hnone : statusChanges added = []) : StatusReported r t :=
  h.trans ⟨added, hevents, by rw [hnone, hstatus]; rfl⟩

theorem of_events_eq (h : StatusReported r s) (hstatus : t.status = s.status) (hevents : t.events = s.events) :
    StatusReported r t :=
  h.of_events_append hstatus (added := []) (by simp [hevents]) rfl

protected theorem answer (h : StatusReported r s) (a : Answer) : StatusReported r (s.answer a) := h.of_events_eq rfl rfl

/-- An event other than StatusChanged. -/
protected theorem emit (h : StatusReported r s) {e : Event} (he : statusChanges [e] = []) : StatusReported r (s.emit e) :=
  h.of_events_append rfl rfl he

/-- A status write reports itself exactly where the record differs (R709). -/
protected theorem updateStatus (h : StatusReported r s) (d : DeviceStatus) : StatusReported r (updateStatus d s) := by
  refine h.trans ⟨_, updateStatus_events d s, ?_⟩
  rw [updateStatus_status]
  split
  · next hsame => exact hsame
  · rfl

/-! ### Waits and the timer -/

protected theorem finishWait (h : StatusReported r s) (k : Kind) (e : Ending) : StatusReported r (finishWait k e s) := by
  obtain ⟨tail, hevents, htail⟩ := finishWait_events_cases k e s
  refine h.of_events_append (finishWait_status k e s) hevents ?_
  rcases htail with rfl | ⟨g, rfl⟩ <;> rfl

protected theorem tickTimer (h : StatusReported r s) : StatusReported r (tickTimer s) := by
  refine forEachKind_keeps (fun k u hu => ?_) (h.of_events_eq rfl rfl)
  rcases expireWait_cases k u with ⟨heq, _⟩ | ⟨_, _, _, _, heq⟩ <;> rw [heq]
  · exact hu
  · exact hu.finishWait k .timeout

/-! ### Received frames -/

protected theorem dispatch (h : StatusReported r s) (ch : Channel) (f : Frame) : StatusReported r (dispatch ch s f) := by
  rcases dispatch_cases ch s f with ⟨_, heq⟩ | ⟨e, _, heq⟩ <;> rw [heq]
  · exact h
  · rcases resolveSignal_cases e.signal (updateStatus e.status s) with ⟨_, hsignal⟩ | ⟨k, v, _, hsignal⟩ <;> rw [hsignal]
    · exact h.updateStatus e.status
    · exact (h.updateStatus e.status).finishWait k _

protected theorem receive (h : StatusReported r s) (ch : Channel) (c : List Byte) : StatusReported r (receive ch c s) :=
  receive_keeps (fun _ f hd => hd.dispatch ch f) c (h.of_events_eq (by simp) (by simp)) h

protected theorem receiveFrame (h : StatusReported r s) (ch : Channel) (id : Byte) (p : List Byte) :
    StatusReported r (receiveFrame ch id p s) := by
  rcases receiveFrame_cases ch id p s with ⟨_, heq⟩ | ⟨_, heq⟩ <;> rw [heq]
  · exact h
  · exact receiveStep_keeps (fun _ f hd => hd.dispatch ch f) _ (h.of_events_eq (by simp) (by simp))

protected theorem receiveError (h : StatusReported r s) (ch : Channel) : StatusReported r (receiveError ch s) := by
  rcases receiveError_cases ch s with ⟨_, heq⟩ | ⟨_, heq⟩ <;> rw [heq]
  · exact h.emit rfl
  · exact h

/-! ### The host commands -/

/-- CONNECT writes the status without a report (R900); that of a quiet block is unknown already (R1105). -/
protected theorem connectBlock (h : StatusReported r s) (hquiet : QuietWhenDisconnected s) :
    StatusReported r (connectBlock s) := by
  rcases connectBlock_cases s with ⟨_, heq⟩ | ⟨hoff, heq⟩ <;> rw [heq]
  · exact h.answer _
  · obtain ⟨_, _, hunknown⟩ := hquiet hoff
    exact h.of_events_eq hunknown.symm (by simp)

protected theorem disconnectBlock (h : StatusReported r s) : StatusReported r (disconnectBlock s) := by
  rcases disconnectBlock_cases s with ⟨_, heq⟩ | ⟨_, heq⟩ <;> rw [heq]
  · exact h.answer _
  · have hstopped : StatusReported r (((s.setConnected false).setRxbuf .data []).setRxbuf .cmd []) :=
      h.of_events_eq (by simp) (by simp)
    exact ((forEachKind_keeps (fun k _ hk => hk.finishWait k .cancelled) hstopped).updateStatus _).answer _

protected theorem sendFrame (h : StatusReported r s) (ch : Channel) (id : Byte) (p : List Byte) (w : Bool) :
    StatusReported r (sendFrame ch id p w s) := by
  rcases sendFrame_cases ch id p w s with ⟨_, heq⟩ | ⟨_, _, heq⟩ | ⟨_, _, heq⟩ <;> rw [heq]
  · exact h.answer _
  · exact h.answer _
  · exact (h.emit rfl).answer _

protected theorem registerWait (h : StatusReported r s) (k : Kind) (T : Word) : StatusReported r (registerWait k T s) :=
  h.of_events_eq (by simp [registerWait_eq]) (by simp [registerWait_eq])

protected theorem issueCommand (h : StatusReported r s) (k : Kind) (T : Word) (p : List Byte) (w : Bool) :
    StatusReported r (issueCommand k T p w s) := by
  have hwritten (frame : List Byte) :
      StatusReported r ((finishWait k .superseded s).emit (.txFrame (kindChannel k) frame)) :=
    (h.finishWait k .superseded).emit rfl
  rcases issueCommand_cases k T p w s with
    ⟨_, heq⟩ | ⟨_, _, heq⟩ | ⟨_, _, _, heq⟩ | ⟨_, _, _, _, heq⟩ | ⟨_, _, _, _, heq⟩ <;> rw [heq]
  · exact h.answer _
  · exact h.answer _
  · exact h.answer _
  · exact (hwritten _).registerWait k T
  · exact (hwritten _).answer _

end StatusReported

theorem Action.statusReported {i : Instr} {s t : State} (h : Action i s t) (hquiet : QuietWhenDisconnected s) :
    StatusReported s t := by
  have hs := StatusReported.refl s
  cases h with
  | connect => exact hs.connectBlock hquiet
  | disconnect => exact hs.disconnectBlock
  | send _ ch id p w => exact hs.sendFrame ch id p w
  | issue _ k T p w => exact hs.issueCommand k T p w
  | snapshot => exact hs.answer _
  | illegal => exact hs.answer _
  | receive _ ch c => exact hs.receive ch c
  | frame _ ch id p => exact hs.receiveFrame ch id p
  | error _ ch => exact hs.receiveError ch
  | tick => exact hs.tickTimer
  | ticks _ n => exact tickTimes_keeps (fun _ hu => hu.tickTimer) n hs

theorem step_statusReported {s t : State} (hquiet : QuietWhenDisconnected s) (h : step s = .next t) :
    StatusReported s t := by
  have hs := StatusReported.refl s
  rcases step_cases h with ⟨_, rfl⟩ | ⟨inp, rest, _, hcase⟩
  · exact hs
  · have hrest : StatusReported s (s.setInputs rest) := hs.of_events_eq rfl rfl
    rcases hcase with ⟨_, rfl⟩ | ⟨_, rfl⟩ | ⟨i, _, hexec⟩
    · exact hrest.answer _
    · exact hrest
    · have hquietRest : QuietWhenDisconnected (s.setInputs rest) := by simpa [QuietWhenDisconnected] using hquiet
      exact hrest.trans ((exec_cases hexec).statusReported hquietRest)

/-- Settles O23: both clauses read off the last report among the events the step added, or its absence. -/
theorem statusChangesAreReported : Obligations.StatusChangesAreReported := by
  intro s t hquiet hstep
  obtain ⟨evs, hevents, hstatus⟩ := step_statusReported hquiet hstep
  rw [hevents, List.drop_left, hstatus]
  exact ⟨fun hnone => by simp [hnone], fun d hlast => by simp [hlast]⟩

/-! ## The block never halts (R1000) -/

/-- Every whole transaction completes: carried out, answered ILLEGAL, or dropped. -/
theorem exists_stepInput_eq_next {inp : Input} (h : decode inp ≠ .malformed) (s : State) :
    ∃ t, stepInput inp s = .next t := by
  unfold stepInput
  cases hd : decode inp with
  | instr i =>
    obtain ⟨t, hexec, _⟩ := exec_action i s
    exact ⟨t, hexec⟩
  | illegal => exact ⟨_, rfl⟩
  | dropped => exact ⟨_, rfl⟩
  | malformed => exact absurd hd h

/-- Where no input has arrived nothing happens (R1019). -/
theorem step_of_inputs_nil {s : State} (h : s.inputs = []) : step s = .next s := by
  simp [step, nextInput, h]

/-- Settles O8. -/
theorem stepNeverStopsOnWholeTransactions : Obligations.StepNeverStopsOnWholeTransactions := by
  intro s hwhole
  cases hin : s.inputs with
  | nil => exact ⟨s, step_of_inputs_nil hin⟩
  | cons inp rest =>
    rw [step_of_inputs_cons hin]
    exact exists_stepInput_eq_next (hwhole inp rest hin) _

end Sys2Proof.Machine

/-! # Reset and hazards (spec/70_reset_and_hazards.md): O14, O10, O19, O22 -/

namespace Sys2Proof.Machine

/-! ## The configuration (R1103) -/

@[simp] theorem connectBlock_config (s : State) : (connectBlock s).config = s.config := by
  rcases connectBlock_cases s with ⟨_, h⟩ | ⟨_, h⟩ <;> simp [h]

@[simp] theorem sendFrame_config (ch : Channel) (id : Byte) (p : List Byte) (w : Bool) (s : State) :
    (sendFrame ch id p w s).config = s.config := by
  rcases sendFrame_cases ch id p w s with ⟨_, h⟩ | ⟨_, _, h⟩ | ⟨_, _, h⟩ <;> simp [h]

@[simp] theorem issueCommand_config (k : Kind) (T : Word) (p : List Byte) (w : Bool) (s : State) :
    (issueCommand k T p w s).config = s.config := by
  rcases issueCommand_cases k T p w s with
    ⟨_, h⟩ | ⟨_, _, h⟩ | ⟨_, _, _, h⟩ | ⟨_, _, _, _, h⟩ | ⟨_, _, _, _, h⟩ <;> simp [h, registerWait_eq]

@[simp] theorem receiveError_config (ch : Channel) (s : State) : (receiveError ch s).config = s.config := by
  rcases receiveError_cases ch s with ⟨_, h⟩ | ⟨_, h⟩ <;> simp [h]

@[simp] theorem receiveFrame_config (ch : Channel) (id : Byte) (p : List Byte) (s : State) :
    (receiveFrame ch id p s).config = s.config := by
  rcases receiveFrame_cases ch id p s with ⟨_, h⟩ | ⟨_, h⟩ <;> rw [h]
  exact receiveStep_config ch _ s

@[simp] theorem tickTimes_config (n : Nat) (s : State) : (tickTimes n s).config = s.config :=
  tickTimes_keeps (P := fun t => t.config = s.config) (fun u h => (tickTimer_config u).trans h) n rfl

/-- No instruction writes the configuration. -/
theorem Action.config_eq {i : Instr} {s t : State} (h : Action i s t) : t.config = s.config := by
  cases h with
  | connect => exact connectBlock_config s
  | disconnect => exact disconnectBlock_config s
  | send _ ch id p w => exact sendFrame_config ch id p w s
  | issue _ k T p w => exact issueCommand_config k T p w s
  | snapshot => rfl
  | illegal => rfl
  | receive _ ch c => exact receive_config ch c s
  | frame _ ch id p => exact receiveFrame_config ch id p s
  | error _ ch => exact receiveError_config ch s
  | tick => exact tickTimer_config s
  | ticks _ n => exact tickTimes_config n s

/-- Settles O10. -/
theorem configurationNeverChanges : Obligations.ConfigurationNeverChanges := fun s _ hstep =>
  step_keeps (P := fun u => u.config = s.config) (fun _ _ hu => hu) (fun _ hu => hu)
    (fun haction hu => haction.config_eq.trans hu) rfl hstep

/-! ## A disconnected block (R1105) -/

/-- While disconnected an ISSUE is only answered. -/
theorem issueCommand_of_disconnected {s : State} (hoff : s.connected = false) (k : Kind) (T : Word) (p : List Byte)
    (w : Bool) : ∃ a, issueCommand k T p w s = s.answer a := by
  rcases issueCommand_cases k T p w s with
    ⟨_, h⟩ | ⟨_, _, h⟩ | ⟨_, _, _, h⟩ | ⟨_, _, hon, _⟩ | ⟨_, _, hon, _⟩
  · exact ⟨_, h⟩
  · exact ⟨_, h⟩
  · exact ⟨_, h⟩
  · exact absurd (hon.symm.trans hoff) Bool.noConfusion
  · exact absurd (hon.symm.trans hoff) Bool.noConfusion

/-- While disconnected a SEND is only answered. -/
theorem sendFrame_of_disconnected {s : State} (hoff : s.connected = false) (ch : Channel) (id : Byte) (p : List Byte)
    (w : Bool) : ∃ a, sendFrame ch id p w s = s.answer a := by
  rcases sendFrame_cases ch id p w s with ⟨_, h⟩ | ⟨_, _, h⟩ | ⟨_, hon, _⟩
  · exact ⟨_, h⟩
  · exact ⟨_, h⟩
  · exact absurd (hon.symm.trans hoff) Bool.noConfusion

/-- While disconnected no chunk is enabled (R601). -/
theorem receive_of_disconnected {s : State} (hoff : s.connected = false) (ch : Channel) (c : List Byte) :
    receive ch c s = s := by
  refine receive_of_not_enabled fun henabled => ?_
  obtain ⟨hon, _⟩ := rxEnabled_iff.mp henabled
  exact absurd (hon.symm.trans hoff) Bool.noConfusion

/-- All an instruction can do to a disconnected block: connect it, answer a command, let ticks pass, or nothing. -/
theorem Action.of_disconnected {i : Instr} {s t : State} (h : Action i s t) (hoff : s.connected = false) :
    t.connected = true ∨ (∃ a, t = s.answer a) ∨ (∃ n, t = tickTimes n s) ∨ t = s := by
  cases h with
  | connect => exact .inl (by simp [connectBlock, hoff])
  | disconnect => exact .inr (.inl ⟨.ok, if_neg (Bool.eq_false_iff.mp hoff)⟩)
  | send _ ch id p w => exact .inr (.inl (sendFrame_of_disconnected hoff ch id p w))
  | issue _ k T p w => exact .inr (.inl (issueCommand_of_disconnected hoff k T p w))
  | snapshot => exact .inr (.inl ⟨_, rfl⟩)
  | illegal => exact .inr (.inl ⟨_, rfl⟩)
  | receive _ ch c => exact .inr (.inr (.inr (receive_of_disconnected hoff ch c)))
  | frame _ ch id p => exact .inr (.inr (.inr (receiveFrame_of_disconnected hoff ch id p)))
  | error _ ch => exact .inr (.inr (.inr (if_neg (Bool.eq_false_iff.mp hoff))))
  | tick => exact .inr (.inr (.inl ⟨1, rfl⟩))
  | ticks _ n => exact .inr (.inr (.inl ⟨n, rfl⟩))

@[simp] theorem sendFrame_connected (ch : Channel) (id : Byte) (p : List Byte) (w : Bool) (s : State) :
    (sendFrame ch id p w s).connected = s.connected := by
  rcases sendFrame_cases ch id p w s with ⟨_, h⟩ | ⟨_, _, h⟩ | ⟨_, _, h⟩ <;> simp [h]

@[simp] theorem issueCommand_connected (k : Kind) (T : Word) (p : List Byte) (w : Bool) (s : State) :
    (issueCommand k T p w s).connected = s.connected := by
  rcases issueCommand_cases k T p w s with
    ⟨_, h⟩ | ⟨_, _, h⟩ | ⟨_, _, _, h⟩ | ⟨_, _, _, _, h⟩ | ⟨_, _, _, _, h⟩ <;> simp [h, registerWait_eq]

@[simp] theorem receiveError_connected (ch : Channel) (s : State) : (receiveError ch s).connected = s.connected := by
  rcases receiveError_cases ch s with ⟨_, h⟩ | ⟨_, h⟩ <;> simp [h]

@[simp] theorem receiveFrame_connected (ch : Channel) (id : Byte) (p : List Byte) (s : State) :
    (receiveFrame ch id p s).connected = s.connected := by
  rcases receiveFrame_cases ch id p s with ⟨_, h⟩ | ⟨_, h⟩ <;> rw [h]
  exact receiveStep_keeps (P := fun t => t.connected = s.connected) (fun _ _ h => by simp [h]) _ (by simp)

@[simp] theorem tickTimes_connected (n : Nat) (s : State) : (tickTimes n s).connected = s.connected :=
  tickTimes_keeps (P := fun t => t.connected = s.connected) (fun u h => (tickTimer_connected u).trans h) n rfl

/-- Of all instructions only DISCONNECT ends a connection. -/
theorem Action.of_connected {i : Instr} {s t : State} (h : Action i s t) (hon : s.connected = true) :
    t.connected = true ∨ t = disconnectBlock s := by
  cases h with
  | connect => exact .inl (by simp [connectBlock, hon])
  | disconnect => exact .inr rfl
  | send _ ch id p w => exact .inl ((sendFrame_connected ch id p w s).trans hon)
  | issue _ k T p w => exact .inl ((issueCommand_connected k T p w s).trans hon)
  | snapshot => exact .inl hon
  | illegal => exact .inl hon
  | receive _ ch c => exact .inl ((receive_connected ch c s).trans hon)
  | frame _ ch id p => exact .inl ((receiveFrame_connected ch id p s).trans hon)
  | error _ ch => exact .inl ((receiveError_connected ch s).trans hon)
  | tick => exact .inl ((tickTimer_connected s).trans hon)
  | ticks _ n => exact .inl ((tickTimes_connected n s).trans hon)

namespace QuietWhenDisconnected

variable {s t : State}

/-- Of a connected block the invariant says nothing. -/
theorem of_connected (hon : s.connected = true) : QuietWhenDisconnected s :=
  fun hoff => absurd (hon.symm.trans hoff) Bool.noConfusion

/-- Neither the inputs still to come nor the answers play a part in it. -/
theorem of_unchanged (h : QuietWhenDisconnected s) (connected : t.connected = s.connected)
    (rxbuf : ∀ ch, t.rxbuf ch = s.rxbuf ch) (slot : ∀ k, t.slot k = s.slot k) (status : t.status = s.status) :
    QuietWhenDisconnected t := by
  simpa only [QuietWhenDisconnected, connected, rxbuf, slot, status] using h

protected theorem answer (h : QuietWhenDisconnected s) (a : Answer) : QuietWhenDisconnected (s.answer a) :=
  h.of_unchanged rfl (State.answer_rxbuf s a) (State.answer_slot s a) rfl

protected theorem setInputs (h : QuietWhenDisconnected s) (l : List Input) : QuietWhenDisconnected (s.setInputs l) :=
  h.of_unchanged rfl (State.setInputs_rxbuf s l) (State.setInputs_slot s l) rfl

/-- A tick finds no wait to end in an Idle slot. -/
protected theorem tickTimer (h : QuietWhenDisconnected s) : QuietWhenDisconnected (tickTimer s) := by
  intro hoff
  obtain ⟨hempty, hidle, hunknown⟩ := h ((tickTimer_connected s).symm.trans hoff)
  refine ⟨fun ch => (tickTimer_rxbuf s ch).trans (hempty ch), fun k => ?_, (tickTimer_status s).trans hunknown⟩
  rw [tickTimer_slot, hidle]
  rfl

protected theorem disconnectBlock (h : QuietWhenDisconnected s) : QuietWhenDisconnected (disconnectBlock s) := by
  intro _
  obtain ⟨hunknown, hidle⟩ := h.disconnectBlock_forgets
  refine ⟨fun ch => ?_, hidle, hunknown⟩
  rw [disconnectBlock_rxbuf]
  split
  · rfl
  · next hoff =>
    obtain ⟨hempty, _⟩ := h (Bool.eq_false_of_not_eq_true hoff)
    exact hempty ch

end QuietWhenDisconnected

theorem Action.quietWhenDisconnected {i : Instr} {s t : State} (h : Action i s t) (hs : QuietWhenDisconnected s) :
    QuietWhenDisconnected t := by
  cases hc : s.connected with
  | true =>
    rcases h.of_connected hc with hon | rfl
    · exact .of_connected hon
    · exact hs.disconnectBlock
  | false =>
    rcases h.of_disconnected hc with hon | ⟨a, rfl⟩ | ⟨n, rfl⟩ | rfl
    · exact .of_connected hon
    · exact hs.answer a
    · exact tickTimes_keeps (fun _ hu => hu.tickTimer) n hs
    · exact hs

/-- Settles O14: only DISCONNECT ends a connection, and it clears everything; a disconnected block can be connected, answer
and count ticks. -/
theorem disconnectedBlockStaysQuiet : Obligations.DisconnectedBlockStaysQuiet := by
  refine ⟨reset_quietWhenDisconnected, fun s t hs hstep => ?step, fun s t hs hexec => ?disconnect⟩
  case step =>
    exact step_keeps (P := QuietWhenDisconnected) (fun _ l hu => hu.setInputs l) (fun _ hu => hu.answer .illegal)
      Action.quietWhenDisconnected hs hstep
  case disconnect =>
    cases hexec
    exact ⟨disconnectBlock_connected s, hs.disconnectBlock⟩

/-! ## Why waits end (R1113, R1114) -/

/-- Settles O19: each of R112's endings, and a registration, is one of the four reasons. -/
theorem waitsEndOnlyForTheFourReasons : Obligations.WaitsEndOnlyForTheFourReasons := by
  intro s t k d g hstep hlive hchanged
  rcases step_wait hstep k with hkept | ⟨inp, rest, i, hin, hd, ⟨e, _, why⟩ | ⟨_, hissue, _⟩⟩
  · exact absurd (hkept.slot.trans hlive) hchanged
  · refine ⟨inp, rest, i, hin, hd, ?_⟩
    rcases why d g hlive with ⟨v, snap, hon, hres, _⟩ | ⟨htick, hdue, _⟩ | ⟨hissue, _⟩ | ⟨hdisconnect, _⟩
    · exact .inr (.inl ⟨hon, v, snap, hres⟩)
    · exact .inl ⟨htick, hdue⟩
    · exact .inr (.inr (.inl hissue))
    · exact .inr (.inr (.inr hdisconnect))
  · exact ⟨inp, rest, i, hin, hd, .inr (.inr (.inl hissue))⟩

/-! ## Every use of the timer is relative (R1101) -/

section

variable (n : Word) (s : State)

@[simp] theorem shiftTime_slot (k : Kind) : (shiftTime n s).slot k = shiftSlot n (s.slot k) := by cases k <;> rfl

@[simp] theorem shiftTime_rxbuf (ch : Channel) : (shiftTime n s).rxbuf ch = s.rxbuf ch := by cases ch <;> rfl

@[simp] theorem shiftTime_config : (shiftTime n s).config = s.config := rfl

@[simp] theorem shiftTime_connected : (shiftTime n s).connected = s.connected := rfl

@[simp] theorem shiftTime_status : (shiftTime n s).status = s.status := rfl

@[simp] theorem shiftTime_now : (shiftTime n s).now = s.now + n := rfl

@[simp] theorem shiftTime_seq : (shiftTime n s).seq = s.seq := rfl

@[simp] theorem shiftTime_inputs : (shiftTime n s).inputs = s.inputs := rfl

/-! ### The updates of the state -/

@[simp] theorem emit_shiftTime (e : Event) : (shiftTime n s).emit e = shiftTime n (s.emit e) := rfl

@[simp] theorem answer_shiftTime (a : Answer) : (shiftTime n s).answer a = shiftTime n (s.answer a) := rfl

@[simp] theorem setConnected_shiftTime (b : Bool) : (shiftTime n s).setConnected b = shiftTime n (s.setConnected b) := rfl

@[simp] theorem setStatus_shiftTime (d : DeviceStatus) : (shiftTime n s).setStatus d = shiftTime n (s.setStatus d) := rfl

@[simp] theorem setSeq_shiftTime (g : Half) : (shiftTime n s).setSeq g = shiftTime n (s.setSeq g) := rfl

@[simp] theorem setInputs_shiftTime (l : List Input) : (shiftTime n s).setInputs l = shiftTime n (s.setInputs l) := rfl

@[simp] theorem setRxbuf_shiftTime (ch : Channel) (b : List Byte) :
    (shiftTime n s).setRxbuf ch b = shiftTime n (s.setRxbuf ch b) := by
  cases ch <;> rfl

@[simp] theorem setSlot_idle_shiftTime (k : Kind) :
    (shiftTime n s).setSlot k .idle = shiftTime n (s.setSlot k .idle) := by
  cases k <;> rfl

/-- A deadline is moved with the timer. -/
theorem setSlot_sent_shiftTime (k : Kind) (d : Word) (g : Half) :
    (shiftTime n s).setSlot k (.sent (d + n) g) = shiftTime n (s.setSlot k (.sent d g)) := by
  cases k <;> rfl

theorem setNow_shiftTime (m : Word) : (shiftTime n s).setNow (m + n) = shiftTime n (s.setNow m) := rfl

/-! ### Waits and the timer -/

@[simp] theorem finishWait_shiftTime (k : Kind) (e : Ending) :
    finishWait k e (shiftTime n s) = shiftTime n (finishWait k e s) := by
  cases h : s.slot k with
  | idle => rw [finishWait_idle e h, finishWait_idle e (by rw [shiftTime_slot, h]; rfl)]
  | sent d g =>
    have hmoved : (shiftTime n s).slot k = .sent (d + n) g := by rw [shiftTime_slot, h]; rfl
    rw [finishWait_sent e h, finishWait_sent e hmoved, emit_shiftTime, setSlot_idle_shiftTime]

/-- Whether a deadline is reached depends on its distance only (R807). -/
theorem expired_add_right (m d : Word) : expired (m + n) (d + n) = expired m d := by
  simp only [expired, add_sub_add_right_eq_sub]

theorem expireWait_shiftTime (k : Kind) : expireWait k (shiftTime n s) = shiftTime n (expireWait k s) := by
  unfold expireWait
  rw [shiftTime_slot]
  cases s.slot k with
  | idle => rfl
  | sent d g =>
    simp only [shiftSlot, shiftTime_now, expired_add_right, finishWait_shiftTime]
    split <;> rfl

/-- What commutes with moving the timer at each visit, does so over the walk. -/
theorem forEachKind_shiftTime {f : Kind → State → State} (h : ∀ k u, f k (shiftTime n u) = shiftTime n (f k u)) :
    forEachKind f (shiftTime n s) = shiftTime n (forEachKind f s) := by
  simp only [forEachKind_eq, h]

@[simp] theorem tickTimer_shiftTime : tickTimer (shiftTime n s) = shiftTime n (tickTimer s) := by
  have hcount : (shiftTime n s).setNow ((shiftTime n s).now + 1#32) = shiftTime n (s.setNow (s.now + 1#32)) := by
    rw [shiftTime_now, add_right_comm, setNow_shiftTime]
  rw [tickTimer_eq, hcount, forEachKind_shiftTime n _ (fun k u => expireWait_shiftTime n u k), ← tickTimer_eq]

theorem tickTimes_shiftTime (m : Nat) : tickTimes m (shiftTime n s) = shiftTime n (tickTimes m s) := by
  induction m generalizing s with
  | zero => rfl
  | succ m ih => rw [tickTimes, tickTimes, tickTimer_shiftTime, ih]

/-! ### Received frames -/

@[simp] theorem updateStatus_shiftTime (d : DeviceStatus) :
    updateStatus d (shiftTime n s) = shiftTime n (updateStatus d s) := by
  unfold updateStatus
  rw [shiftTime_status]
  split <;> rfl

theorem resolveSignal_shiftTime (signal : Option (Kind × Byte)) :
    resolveSignal signal (shiftTime n s) = shiftTime n (resolveSignal signal s) := by
  match signal with
  | none => rfl
  | some (k, v) => exact finishWait_shiftTime n s k _

theorem dispatch_shiftTime (ch : Channel) (f : Frame) :
    dispatch ch (shiftTime n s) f = shiftTime n (dispatch ch s f) := by
  unfold dispatch
  rw [shiftTime_config, shiftTime_status]
  cases interpret s.config ch f s.status with
  | none => rfl
  | some e => simp only [updateStatus_shiftTime, resolveSignal_shiftTime]

theorem receiveStep_shiftTime (ch : Channel) (c : List Byte) :
    receiveStep ch c (shiftTime n s) = shiftTime n (receiveStep ch c s) := by
  simp only [receiveStep_eq, shiftTime_config, shiftTime_rxbuf, setRxbuf_shiftTime]
  exact List.foldl_hom (shiftTime n) fun u f => dispatch_shiftTime n u ch f

theorem rxEnabled_shiftTime (ch : Channel) (c : List Byte) : rxEnabled (shiftTime n s) ch c = rxEnabled s ch c := by
  simp only [rxEnabled, shiftTime_connected, shiftTime_config, shiftTime_rxbuf]

theorem receive_shiftTime (ch : Channel) (c : List Byte) :
    receive ch c (shiftTime n s) = shiftTime n (receive ch c s) := by
  rw [receive, receive, rxEnabled_shiftTime, receiveStep_shiftTime, apply_ite (shiftTime n)]

theorem receiveFrame_shiftTime (ch : Channel) (id : Byte) (p : List Byte) :
    receiveFrame ch id p (shiftTime n s) = shiftTime n (receiveFrame ch id p s) := by
  rw [receiveFrame, receiveFrame, shiftTime_connected, shiftTime_config, receiveStep_shiftTime, apply_ite (shiftTime n)]

theorem receiveError_shiftTime (ch : Channel) : receiveError ch (shiftTime n s) = shiftTime n (receiveError ch s) := by
  rw [receiveError, receiveError, shiftTime_connected, emit_shiftTime, apply_ite (shiftTime n)]

/-! ### The host commands -/

theorem connectBlock_shiftTime : connectBlock (shiftTime n s) = shiftTime n (connectBlock s) := by
  simp only [connectBlock, shiftTime_connected, setConnected_shiftTime, setRxbuf_shiftTime, setStatus_shiftTime,
    answer_shiftTime, apply_ite (shiftTime n)]

theorem disconnectBlock_shiftTime : disconnectBlock (shiftTime n s) = shiftTime n (disconnectBlock s) := by
  have hcancel (u : State) := forEachKind_shiftTime n u fun k v => finishWait_shiftTime n v k .cancelled
  simp only [disconnectBlock, forgetStatus, shiftTime_connected, setConnected_shiftTime, setRxbuf_shiftTime, hcancel,
    updateStatus_shiftTime, answer_shiftTime, apply_ite (shiftTime n)]

theorem sendFrame_shiftTime (ch : Channel) (id : Byte) (p : List Byte) (w : Bool) :
    sendFrame ch id p w (shiftTime n s) = shiftTime n (sendFrame ch id p w s) := by
  rw [sendFrame, sendFrame, shiftTime_connected]
  simp only [shiftTime_config, emit_shiftTime, answer_shiftTime,
    apply_ite (shiftTime n)]

/-- The deadline of a new wait is a distance from the timer (R801). -/
theorem registerWait_shiftTime (k : Kind) (T : Word) :
    registerWait k T (shiftTime n s) = shiftTime n (registerWait k T s) := by
  simp only [registerWait_eq, shiftTime_seq, shiftTime_now, setSeq_shiftTime, add_right_comm s.now n,
    setSlot_sent_shiftTime, answer_shiftTime]

theorem issueCommand_shiftTime (k : Kind) (T : Word) (p : List Byte) (w : Bool) :
    issueCommand k T p w (shiftTime n s) = shiftTime n (issueCommand k T p w s) := by
  simp only [issueCommand, illegalCommand, shiftTime_connected, shiftTime_config, finishWait_shiftTime, emit_shiftTime,
    answer_shiftTime, registerWait_shiftTime, apply_ite (shiftTime n)]

/-! ### A step -/

/-- Every instruction but SNAPSHOT commutes with moving the timer. -/
theorem exec_shiftTime {i : Instr} (hi : i ≠ .snapshot) {t : State} (h : exec i s = .next t) :
    exec i (shiftTime n s) = .next (shiftTime n t) := by
  cases i with
  | snapshot => exact absurd rfl hi
  | connect => cases h; exact congrArg Host.Outcome.next (connectBlock_shiftTime n s)
  | disconnect => cases h; exact congrArg Host.Outcome.next (disconnectBlock_shiftTime n s)
  | send | txStatusRequest | reqStatus => cases h; exact congrArg Host.Outcome.next (sendFrame_shiftTime n s ..)
  | issue | txNoise | txAncLevel | txAmbientLevel | txTestConn | setNoise | setAnc | setAmbient | testConn =>
    cases h; exact congrArg Host.Outcome.next (issueCommand_shiftTime n s ..)
  | illegalOp0 | illegalOp6 | illegalOp7 | illegalOp8 | illegalOp9 | illegalOpA | illegalOpB | illegalOpC | illegalOpD
  | illegalOpE | illegalOpF => cases h; rfl
  | rx ch c => cases h; exact congrArg Host.Outcome.next (receive_shiftTime n s ch c)
  | rxErr ch => cases h; exact congrArg Host.Outcome.next (receiveError_shiftTime n s ch)
  | rxStatus | rxAck | rxTestResult | rxOther => cases h; exact congrArg Host.Outcome.next (receiveFrame_shiftTime n s ..)
  | tick => cases h; exact congrArg Host.Outcome.next (tickTimer_shiftTime n s)
  | ticks m => cases h; exact congrArg Host.Outcome.next (tickTimes_shiftTime n s m)

theorem stepInput_shiftTime {inp : Input} (hi : decode inp ≠ .instr .snapshot) {t : State} (h : stepInput inp s = .next t) :
    stepInput inp (shiftTime n s) = .next (shiftTime n t) := by
  unfold stepInput at h ⊢
  cases hd : decode inp with
  | instr i =>
    simp only [hd] at h ⊢
    exact exec_shiftTime n s (fun hsnap => hi (hsnap ▸ hd)) h
  | illegal => simp only [hd] at h ⊢; cases h; rfl
  | dropped => simp only [hd] at h ⊢; cases h; rfl
  | malformed => simp [hd] at h

end

/-- Settles O22: every operation but SNAPSHOT's commutes with moving the timer, as deadlines are set and compared relative
to it. -/
theorem nothingDependsOnTheInitialTimer : Obligations.NothingDependsOnTheInitialTimer := by
  intro n s t hnone hstep
  cases hin : s.inputs with
  | nil =>
    rw [step_of_inputs_nil hin] at hstep
    cases hstep
    exact step_of_inputs_nil ((shiftTime_inputs n s).trans hin)
  | cons inp rest =>
    rw [step_of_inputs_cons hin] at hstep
    rw [step_of_inputs_cons ((shiftTime_inputs n s).trans hin), setInputs_shiftTime]
    exact stepInput_shiftTime n _ (hnone inp rest hin) hstep

end Sys2Proof.Machine
